-- ==== Sys2Proof/Syntax.lean ====
section
/-! DEFINITION. The three commands of the engine, one constructor per row of spec/opcode_table.json
(spec/30_encoding.md R72). No command carries an operand in its word (R71, R73). -/

namespace Sys2Proof

/-- A command of the engine (R72). -/
inductive Instr where
  /-- `Construct(key)`: bind a key schedule (R130). -/
  | construct
  /-- `Encrypt(plaintext)`: zero-pad, draw an IV, chain (R140). -/
  | encrypt
  /-- `Decrypt(ciphertext)`: check, split, unchain, cut at the first zero byte (R160). -/
  | decrypt
  deriving DecidableEq, Repr

end Sys2Proof
end

