-- ==== Sys2Proof/Word.lean ====
section
/-! DEFINITION. The value types of the engine: bytes, 32-bit registers, key words and blocks, and their
exclusive or (spec/00_scope.md R8, spec/41_block_cipher_aes.md R100, R109, R114). -/

namespace Sys2Proof

/-- A byte, 0..255 (R8). -/
abbrev Byte := BitVec 8

/-- The value of a control and status register (R8, R56). -/
abbrev Reg32 := BitVec 32

/-- A word of the key schedule: a sequence of four bytes, first byte first (R109). It is also one column of
the cipher's state, row 0 first (R100). -/
structure Word where
  b0 : Byte
  b1 : Byte
  b2 : Byte
  b3 : Byte
  deriving DecidableEq, Repr, Inhabited

/-- A block: 16 bytes, which are the four columns of the cipher's state in order (R100: `s[r][c] = b[r + 4*c]`). -/
structure Block where
  w0 : Word
  w1 : Word
  w2 : Word
  w3 : Word
  deriving DecidableEq, Repr, Inhabited

/-- Four bytes 0x00. -/
def Word.zero : Word := ⟨0#8, 0#8, 0#8, 0#8⟩

/-- Byte-wise exclusive or of two words (R8). -/
def Word.xor (x y : Word) : Word := ⟨x.b0 ^^^ y.b0, x.b1 ^^^ y.b1, x.b2 ^^^ y.b2, x.b3 ^^^ y.b3⟩

/-- Sixteen bytes 0x00, `zeros(16)`. -/
def Block.zero : Block := ⟨.zero, .zero, .zero, .zero⟩

/-- Block XOR: sixteen independent byte exclusive ors (R114). -/
def Block.xor (x y : Block) : Block := ⟨x.w0.xor y.w0, x.w1.xor y.w1, x.w2.xor y.w2, x.w3.xor y.w3⟩

/-- The answer of the random source to one request: `ok(iv)` with 16 bytes, or `fail` (R9, R196). -/
inductive RngResp where
  | ok (iv : Block)
  | fail
  deriving DecidableEq, Repr, Inhabited

end Sys2Proof
end

