-- ==== Sys2Proof/Decode.lean ====
section
/-! DEFINITION. The CMD word: decoding, encoding, and the opcode table's numbering of its bits
(spec/30_encoding.md R71, R72, R78). -/

namespace Sys2Proof

/-- Why a CMD word is no command (R78). Each of them ends at issue with `IllegalCommand`. -/
inductive DecodeError where
  /-- A bit of the field `ZERO`, bits 31:4, is 1. -/
  | zeroFieldNonzero
  /-- `ZERO` is 0 and `OP` is 0 or 4..15. -/
  | reservedOp (op : BitVec 4)
  deriving DecidableEq, Repr

/-- The field `ZERO`, bits 31:4 of the CMD word (R71). -/
def cmdZero (v : BitVec 32) : BitVec 28 := v.extractLsb' 4 28

/-- The field `OP`, bits 3:0 of the CMD word (R71). -/
def cmdOp (v : BitVec 32) : BitVec 4 := v.extractLsb' 0 4

/-- The command with operation code `op` (R72). -/
def decodeOp (op : BitVec 4) : Except DecodeError Instr :=
  if op = 1#4 then .ok .construct
  else if op = 2#4 then .ok .encrypt
  else if op = 3#4 then .ok .decrypt
  else .error (.reservedOp op)

/-- The command a CMD word encodes, or why it is none: total on all 2^32 words (R71, R72, R78). -/
def decode (v : BitVec 32) : Except DecodeError Instr :=
  if cmdZero v = 0#28 then decodeOp (cmdOp v) else .error .zeroFieldNonzero

/-- The operation code of a command (R72). -/
def opOf : Instr → BitVec 4
  | .construct => 1#4
  | .encrypt => 2#4
  | .decrypt => 3#4

/-- The CMD word of a command: `ZERO` = 0, `OP` as R72 (R71). -/
def encode (i : Instr) : BitVec 32 := 0#28 ++ opOf i

/-- The command the decoder reads from the word whose low `nbits` bits are those of `w`, the bits above being 0. The
CMD word is written whole, as one 32-bit value (R54, R56), so its bits are numbered as the opcode table numbers
them. -/
def decodeTableWord (nbits w : Nat) : Option Instr := (decode (BitVec.ofNat 32 (w % 2 ^ nbits))).toOption

/-- The words of R72's table, written out: `ZERO` in bits 31:4, `OP` in bits 3:0. -/
theorem decode_construct_word : decode 0b0000000000000000000000000000_0001#32 = .ok .construct := by decide

theorem decode_encrypt_word : decode 0b0000000000000000000000000000_0010#32 = .ok .encrypt := by decide

theorem decode_decrypt_word : decode 0b0000000000000000000000000000_0011#32 = .ok .decrypt := by decide

end Sys2Proof
end

