-- ==== Sys2Proof/Config.lean ====
section
/-! DEFINITION. What an implementation fixes, and the free values: constants without a known value, so that a
claim holds whatever they are (spec/00_scope.md R7, spec/93_implementation_defined.md U1, U3, U11). -/

namespace Sys2Proof

/-- The block length in bytes (R6). -/
def Config.blockBytes : Nat := 16

/-- The size of the KEY space in bytes (R51). -/
def Config.keySpaceBytes : Nat := 32

/-- FREE: the implementation's choice behind `Config.maxPt`. -/
opaque Config.maxPtChoice : Nat

/-- `MAX_PT`, the largest plaintext an ENCRYPT accepts (R7, U11): some multiple of 16 with `16 <= MAX_PT` and
`MAX_PT + 16 < 2^32`. The formula reaches every such value and no other; which one it is, nothing can prove.
DESIGN CHOICE (log 1). -/
def Config.maxPt : Nat := 16 * (Config.maxPtChoice % (2 ^ 28 - 2) + 1)

/-- FREE: what the random source answers to its request number `n` when the state's script says nothing of that
request (U1: any 16 bytes, or a failure, under no law). Log 4. -/
opaque Config.rngAnswer : Nat → RngResp

/-- FREE: the `n`-th byte that a host read of an unspecified byte returns (U3, R53, R60). Log 8. -/
opaque Config.freeByte : Nat → Byte

end Sys2Proof
end

