-- ==== Sys2Proof/Machine/Lines.lean ====
section
/-! DEFINITION. What the outside world does to the engine, as data: the host's lines (spec/30_encoding.md R80,
R81), the values its reads return (R82), and the events of the one total order of steps (spec/20_memory.md R65). -/

namespace Sys2Proof.Machine

/-- The three byte spaces the host addresses, beside the CSR space (R29, R50). -/
inductive Space where
  | key
  | inBuf
  | outBuf
  deriving DecidableEq, Repr

/-- One line of a host program. CSRs are given by number (R30), so that numbers without a register can be
written down too (R37). -/
inductive HostLine where
  /-- `WR name, v`: write `v` to CSR number `n`. -/
  | wr (n : Nat) (v : Reg32)
  /-- `RD name`: read CSR number `n`. -/
  | rd (n : Nat)
  /-- `WB S+off, b`: write one byte. -/
  | wb (sp : Space) (off : Nat) (b : Byte)
  /-- `RB S+off`: read one byte. -/
  | rb (sp : Space) (off : Nat)
  /-- `WAIT`: repeat `RD STATUS` until `DONE` is 1. -/
  | wait
  /-- `READOUT` (R81): `RD OUTLEN`, then that many bytes of OUT. -/
  | readout
  /-- `COPYOUT` (R81): `READOUT`, then `LOADIN` of the bytes read. -/
  | copyout
  /-- The second half of `COPYOUT`: `LOADIN` of the last `m` bytes the host has read. -/
  | loadRead (m : Nat)
  /-- An access the engine's port does not define: not one whole CSR and not one single byte (U7). -/
  | undefined
  deriving DecidableEq, Repr

/-- What one read of the host returned (R82). -/
inductive ReadValue where
  | csr (v : Reg32)
  | byte (b : Byte)
  deriving DecidableEq, Repr

/-- One step of one agent (R10, R65, R210). -/
inductive Event where
  /-- The engine takes its enabled step or, at `E_GENIV`, the random source answers: at most one of the two is
  ever enabled, so one event stands for both. -/
  | engine
  /-- The host performs a line. -/
  | host (l : HostLine)
  /-- The reset input (R210). -/
  | reset
  /-- The random source stops answering (`true`) or answers again (`false`) (U6, R214). -/
  | silence (b : Bool)
  deriving DecidableEq, Repr

end Sys2Proof.Machine
end

