-- ==== Sys2Proof/Machine/State.lean ====
section
/-! DEFINITION. The state of the engine as plain data, and its value after reset (spec/10_state.md R20 to R43,
spec/70_reset_and_hazards.md R210). -/

namespace Sys2Proof.Machine

/-- `PHASE`: which step of the command in flight comes next (R24). -/
inductive Phase where
  /-- No command in flight. -/
  | idle
  /-- CONSTRUCT: the key length is checked (R131). -/
  | kInit
  /-- CONSTRUCT: the key schedule is computed (R132). -/
  | kExpand
  /-- ENCRYPT `Init`: latch, keyed and capacity checks (R141). -/
  | eInit
  /-- ENCRYPT `PadPlaintext` (R142). -/
  | ePad
  /-- ENCRYPT `GenerateIV`: a request to the random source is outstanding (R143). -/
  | eGenIv
  /-- ENCRYPT `ChainEncrypt` (R144, R145). -/
  | eChain
  /-- DECRYPT `Init`: latch, keyed, capacity and too-short checks (R161). -/
  | dInit
  /-- DECRYPT `SplitIV` (R162). -/
  | dSplitIv
  /-- DECRYPT `ValidateLength` (R163). -/
  | dValidate
  /-- DECRYPT `ChainDecrypt` (R164). -/
  | dChain
  /-- DECRYPT `StripPadding` (R165). -/
  | dStrip
  deriving DecidableEq, Repr

/-- The key-size variant, which stands for `NK` (R22, R110). -/
inductive KeyVariant where
  | aes128
  | aes192
  | aes256
  deriving DecidableEq, Repr

/-- The error kinds (R181). -/
inductive ErrorKind where
  | invalidKeySize
  | randomness
  | ciphertextTooShort
  | misalignedCiphertext
  | notKeyed
  | inputTooLong
  | illegalCommand
  deriving DecidableEq, Repr

/-- A byte space: pairs of offset and byte, offsets strictly rising, none equal to what an unlisted offset reads
as. -/
abbrev Memory := List Host.Cell

/-- The byte spaces the engine reads and writes: the three of R50 and the work buffer (R27). -/
inductive Region where
  | key
  | inBuf
  | outBuf
  | work
  deriving DecidableEq, Repr

/-- What an offset that a space does not list reads as: KEY is all 0x00 after reset (R43, R51); a byte of IN, OUT
or WORK that nothing has written has no value (R43, R69, R27). -/
def unlisted : Region → Option Byte
  | .key => some 0#8
  | .inBuf => none
  | .outBuf => none
  | .work => none

/-- The state: the persistent cipher state (R21 to R23), the per-call state (R24 to R28), the registers (R30 to
R36) and the spaces (R29), the parameter MAX_PT (R7), and the environment a step reads. -/
structure State where
  /-- `KEYED` (R21). -/
  keyed : Bool
  /-- `NK` (R22). -/
  nk : KeyVariant
  /-- `RK[0..14]` (R23). -/
  rk : Vector Block 15
  /-- `PHASE` (R24). -/
  phase : Phase
  /-- `LEN` (R25). -/
  len : Nat
  /-- `KLEN` (R25). -/
  klen : Nat
  /-- `IVREG` (R26). -/
  ivreg : Block
  /-- `CHAIN` (R26). -/
  chain : Block
  /-- `NBLK` (R26). -/
  nblk : Nat
  /-- `IDX` (R26). -/
  idx : Nat
  /-- `WORK` (R27). -/
  work : Memory
  /-- `WLEN` (R27). -/
  wlen : Nat
  /-- `RNG_PENDING` (R28). -/
  rngPending : Bool
  /-- `STATUS.DONE` (R32). -/
  done : Bool
  /-- `ERR`: the kind whose code the register shows; `none` is code 0 (R33, R181). -/
  err : Option ErrorKind
  /-- `KEYLEN` (R34). -/
  keylen : Reg32
  /-- `INLEN` (R35). -/
  inlen : Reg32
  /-- `OUTLEN` (R36). -/
  outlen : Reg32
  /-- The `KEY` space (R51). -/
  key : Memory
  /-- The `IN` space (R52). -/
  inBuf : Memory
  /-- The `OUT` space (R53). -/
  outBuf : Memory
  /-- `MAX_PT`, the parameter (R7, U11); no step changes it (log 1). -/
  maxPt : Nat
  /-- How many requests the random source has been sent; the outstanding one is the last (R196, log 4). -/
  rngReqs : Nat
  /-- The answers of the random source, in order of request, as far as they are written down (log 4). -/
  rngScript : List RngResp
  /-- The random source does not answer (U6, log 5). -/
  rngSilent : Bool
  /-- How many free bytes have been drawn (U3, log 8). -/
  draws : Nat
  /-- The events to come, oldest first (R65, log 2). -/
  inputs : List Event
  /-- The values the host's reads have returned, oldest first (R82, log 14). -/
  reads : List ReadValue
  deriving DecidableEq, Repr

/-- Why the machine stops. -/
inductive Fault where
  /-- Raised by ENCRYPT at `E_PAD` and by DECRYPT at `D_SPLITIV` and `D_CHAIN`, when the operand holds a byte of IN
  at offset `off` that the host has not written since reset: the spec asks for a fault here (R69, U2). Safe. -/
  | unwrittenInput (off : Nat)
  /-- Raised by ENCRYPT at `E_CHAIN` and DECRYPT at `D_STRIP`, when WORK has no value at offset `off`. No run
  reaches it: WORK is written before it is read (R27). Safe (log 10). -/
  | unwrittenWork (off : Nat)
  /-- Raised by CONSTRUCT at `K_EXPAND` when KLEN is not 16, 24 or 32: KeyExpansion is undefined there (R109). No
  run reaches it (R131). Safe (log 10). -/
  | keyLengthUndefined (len : Nat)
  /-- Raised at `E_CHAIN` and `D_CHAIN` when IDX is outside the range a rule is given for (R26, R144, R145, R164).
  No run reaches it. Safe (log 10). -/
  | blockIndexUndefined (idx : Nat)
  deriving DecidableEq, Repr

/-- Why a step has no meaning. -/
inductive Refusal where
  /-- An instruction without a meaning. No arm raises it. Safe. -/
  | notModelled (mnemonic : String)
  /-- Raised by a host access that the engine's port does not define: neither one whole CSR nor one byte (R56,
  U7: the spec asks for a refusal here). Safe (log 13). -/
  | undefinedAccess
  deriving DecidableEq, Repr

/-- The outcome of a step. -/
abbrev Result := Host.Outcome State Fault Refusal

/-- The state after reset (R43, R210), with nothing in the environment. The values of NK, LEN, KLEN, IVREG, CHAIN,
NBLK, IDX, WLEN are DESIGN CHOICES: the spec leaves them unspecified (log 6). -/
def State.reset : State where
  keyed := false
  nk := .aes128
  rk := .replicate 15 .zero
  phase := .idle
  len := 0
  klen := 0
  ivreg := .zero
  chain := .zero
  nblk := 0
  idx := 0
  work := []
  wlen := 0
  rngPending := false
  done := false
  err := none
  keylen := 0#32
  inlen := 0#32
  outlen := 0#32
  key := []
  inBuf := []
  outBuf := []
  maxPt := Config.maxPt
  rngReqs := 0
  rngScript := []
  rngSilent := false
  draws := 0
  inputs := []
  reads := []

end Sys2Proof.Machine
end

