-- ==== Sys2Proof/Machine/Ops.lean ====
section
/-! DEFINITION. The named operations over the spaces and registers, the issue of a command, and taking an error
(spec/20_memory.md R50 to R69, spec/30_encoding.md R83, spec/60_exceptions.md R190,
spec/70_reset_and_hazards.md R210). -/

namespace Sys2Proof.Machine

/-! ## Byte spaces as lists of cells -/

/-- The byte listed at offset `a`, else what an unlisted offset reads as. -/
def Memory.read (dflt : Option Byte) : Memory → Nat → Option Byte
  | [], _ => dflt
  | c :: m, a => if c.1 = a then some c.2 else Memory.read dflt m a

/-- The cells at other offsets than `a`. -/
def Memory.erase : Memory → Nat → Memory
  | [], _ => []
  | c :: m, a => if c.1 = a then Memory.erase m a else c :: Memory.erase m a

/-- The cell `(a, b)` put before the first cell of a greater offset. -/
def Memory.place (a : Nat) (b : Byte) : Memory → Memory
  | [] => [(a, b)]
  | c :: m => if a < c.1 then (a, b) :: c :: m else c :: Memory.place a b m

/-- Store `b` at offset `a`; a byte equal to what an unlisted offset reads as is not listed. -/
def Memory.write (dflt : Option Byte) (m : Memory) (a : Nat) (b : Byte) : Memory :=
  if dflt = some b then m.erase a else (m.erase a).place a b

/-- The `n` bytes at offsets `a ..`, or the first offset whose byte has no value. -/
def Memory.readRange (dflt : Option Byte) (m : Memory) : Nat → Nat → Except Nat (List Byte)
  | _, 0 => .ok []
  | a, n + 1 =>
    match Memory.read dflt m a with
    | none => .error a
    | some b =>
      match Memory.readRange dflt m (a + 1) n with
      | .error x => .error x
      | .ok bs => .ok (b :: bs)

/-- `MemWrite(S, a, n, v)` (R9, R57), on the cells of the space: store the bytes at offsets `a ..`. -/
def Memory.writeRange (dflt : Option Byte) : Memory → Nat → List Byte → Memory
  | m, _, [] => m
  | m, a, b :: bs => Memory.writeRange dflt (m.write dflt a b) (a + 1) bs

/-- Every offset of `m` is above `a`, and so on along `m`. -/
def Memory.sortedFrom : Option Nat → Memory → Bool
  | _, [] => true
  | none, c :: m => Memory.sortedFrom (some c.1) m
  | some a, c :: m => decide (a < c.1) && Memory.sortedFrom (some c.1) m

/-- The canonical form: offsets strictly rising, no cell equal to what an unlisted offset reads as. -/
def Memory.wf (dflt : Option Byte) (m : Memory) : Bool :=
  Memory.sortedFrom none m && m.all (fun c => dflt != some c.2)

/-- Every listed offset is below `size`. -/
def Memory.within (size : Nat) (m : Memory) : Bool := m.all (fun c => decide (c.1 < size))

/-! ## Spaces of the state -/

/-- The space named by `r`. -/
def State.region (s : State) : Region → Memory
  | .key => s.key
  | .inBuf => s.inBuf
  | .outBuf => s.outBuf
  | .work => s.work

/-- The state with the space named by `r` replaced. -/
def State.setRegion (s : State) (r : Region) (m : Memory) : State :=
  match r with
  | .key => { s with key := m }
  | .inBuf => { s with inBuf := m }
  | .outBuf => { s with outBuf := m }
  | .work => { s with work := m }

/-- One byte of a space, `none` where the byte has no value. -/
def State.load (s : State) (r : Region) (off : Nat) : Option Byte := Memory.read (unlisted r) (s.region r) off

/-- Store one byte in a space. -/
def State.store (s : State) (r : Region) (off : Nat) (b : Byte) : State :=
  s.setRegion r (Memory.write (unlisted r) (s.region r) off b)

/-- `MemRead(S, off, n)` (R9, R57), or the first offset whose byte has no value. -/
def State.loadRange (s : State) (r : Region) (off n : Nat) : Except Nat (List Byte) :=
  Memory.readRange (unlisted r) (s.region r) off n

/-- The bytes of a word, in order (R109). -/
def wordBytes (w : Word) : List Byte := [w.b0, w.b1, w.b2, w.b3]

/-- The sixteen bytes of a block, in order (R54, R100). -/
def blockBytes (b : Block) : List Byte := wordBytes b.w0 ++ wordBytes b.w1 ++ wordBytes b.w2 ++ wordBytes b.w3

/-- The word whose bytes are the first four of `bs` (R109). Used on at least four bytes. -/
def wordOfBytes (bs : List Byte) : Word :=
  ⟨bs.getD 0 0#8, bs.getD 1 0#8, bs.getD 2 0#8, bs.getD 3 0#8⟩

/-- The block whose bytes are the first sixteen of `bs` (R100). Used on at least sixteen bytes. -/
def blockOfBytes (bs : List Byte) : Block :=
  ⟨wordOfBytes bs, wordOfBytes (bs.drop 4), wordOfBytes (bs.drop 8), wordOfBytes (bs.drop 12)⟩

/-- `MemRead(S, off, 16)` as a block, or the first offset whose byte has no value. -/
def State.loadBlock (s : State) (r : Region) (off : Nat) : Except Nat Block :=
  match s.loadRange r off 16 with
  | .error a => .error a
  | .ok bs => .ok (blockOfBytes bs)

/-- `MemWrite(S, a, 16, b)` of a block, on the cells of the space. -/
def Memory.writeBlock (dflt : Option Byte) (m : Memory) (a : Nat) (b : Block) : Memory :=
  Memory.writeRange dflt m a (blockBytes b)

/-! ## Sizes of the spaces -/

/-- `CAP`, the size of IN and OUT (R7, R52, R53). -/
def State.cap (s : State) : Nat := s.maxPt + 16

/-- A command is in flight; the flag `STATUS.BUSY` (R32). -/
def State.busy (s : State) : Bool := s.phase != .idle

/-! ## Issue of a command, taking an error, ending a command -/

/-- What the issue of any command clears first: DONE, ERROR, ERR, OUTLEN; OUT becomes unspecified (R83). This is also
what leaves an error (R195): there is no return from one. The working registers, WORK among them, still hold what the
last command left in them: DESIGN CHOICE (log 17). -/
def issueClear (s : State) : State :=
  { s with done := false, err := none, outlen := 0#32, outBuf := [] }

/-- Issue: clear, then move to the command's first phase (R83). -/
def issue (p : Phase) (s : State) : State := { issueClear s with phase := p }

/-- `raise Error(K)`: take an error (R190). OUT is unspecified afterwards; everything else is kept. That the
working registers and WORK, which the spec leaves unspecified outside a call (R26, R27, U4), are kept too is a DESIGN
CHOICE (log 17). -/
def raise (k : ErrorKind) (s : State) : State :=
  { s with err := some k, outlen := 0#32, rngPending := false, phase := .idle, done := true, outBuf := [] }

/-- The successful end of a command: `PHASE <- IDLE ; STATUS.DONE <- 1` (R132, R145, R165). The working registers and
WORK, which the spec leaves unspecified outside a call (R26, R27, U4), keep their values: DESIGN CHOICE (log 17). -/
def finish (s : State) : State := { s with phase := .idle, done := true }

/-- The reset event (R210): every piece of engine state at its value of R43. The parameter and the environment are
not the engine's: they are kept; the number of requests is kept too, so that the answer to a request made before reset
is given to no later one (R211). -/
def resetEngine (s : State) : State :=
  { State.reset with
    maxPt := s.maxPt
    rngReqs := s.rngReqs
    rngScript := s.rngScript
    rngSilent := s.rngSilent
    draws := s.draws
    inputs := s.inputs
    reads := s.reads }

/-- A draw: the byte a read of an unspecified byte returns, and the state with one draw more (R60, U3). -/
def drawByte (s : State) : Byte × State := (Config.freeByte s.draws, { s with draws := s.draws + 1 })

end Sys2Proof.Machine
end

