-- ==== Sys2Proof/Machine/Operands.lean ====
section
/-! DEFINITION. The operands of the commands, all implicit (spec/30_encoding.md R73 to R77): lengths, the key's
variant, padding and stripping, and the answer of the random source. -/

namespace Sys2Proof.Machine

/-- `NK`, the key length in 32-bit words (R22, R110). -/
def KeyVariant.words : KeyVariant → Nat
  | .aes128 => 4
  | .aes192 => 6
  | .aes256 => 8

/-- `NR = NK + 6`, the number of rounds (R22, R110). -/
def KeyVariant.rounds (v : KeyVariant) : Nat := v.words + 6

/-- The variant a key length in bytes selects, `none` for an illegal length (R110, R131). -/
def variantOf (klen : Nat) : Option KeyVariant :=
  if klen = 16 then some .aes128
  else if klen = 24 then some .aes192
  else if klen = 32 then some .aes256
  else none

/-- The least multiple of 16 that is at least `x` (R8). -/
def ceil16 (x : Nat) : Nat := 16 * ((x + 15) / 16)

/-- The padded plaintext: the plaintext, then zero bytes up to the next multiple of 16 (R142). -/
def padded (bs : List Byte) : List Byte := bs ++ List.replicate (ceil16 bs.length - bs.length) 0#8

/-- The bytes before the first 0x00, all of them if there is none (R165, R167). -/
def strip : List Byte → List Byte
  | [] => []
  | b :: bs => if b = 0#8 then [] else b :: strip bs

/-- The answer of the random source to request number `n`: what its script says, else a free value (U1, log 4). -/
def State.answerTo (s : State) (n : Nat) : RngResp :=
  match s.rngScript[n]? with
  | some r => r
  | none => Config.rngAnswer n

/-- The answer that stands at the port: `none` while no request is outstanding or the source is silent (R28, R143,
R196, U6). -/
def State.answer (s : State) : Option RngResp :=
  if s.rngPending && !s.rngSilent then some (s.answerTo (s.rngReqs - 1)) else none

/-- OUT holds a result at offset `off`: the last command ended without an error and `off` is below OUTLEN (R53). -/
def State.outValid (s : State) (off : Nat) : Bool :=
  !s.busy && s.done && s.err.isNone && decide (off < s.outlen.toNat)

end Sys2Proof.Machine
end

