-- ==== Sys2Proof/Machine/Cipher.lean ====
section
/-! DEFINITION. The block cipher: GF(2^8), the S-boxes, the round transformations, the key schedule, the forward and
the inverse cipher (spec/41_block_cipher_aes.md R100 to R112). The spec supplies all of it from general knowledge and
says so (spec/93_implementation_defined.md G1); log 16. -/

namespace Sys2Proof.Machine

/-! ## GF(2^8) -/

/-- Multiplication by `x` modulo `x^8 + x^4 + x^3 + x + 1` (R101). -/
def xtime (a : Byte) : Byte := (a <<< 1) ^^^ (if a.getLsbD 7 then 0x1b#8 else 0x00#8)

/-- The exclusive or, over the set bits `i < n` of `b`, of `xtime` applied `i` times to `a` (R101). -/
def gmulBits : Nat → Byte → Byte → Byte
  | 0, _, _ => 0#8
  | n + 1, a, b => (if b.getLsbD 0 then a else 0#8) ^^^ gmulBits n (xtime a) (b >>> 1)

/-- `gmul(a, b)` (R101). -/
def gmul (a b : Byte) : Byte := gmulBits 8 a b

/-! ## S-boxes -/

/-- `SBOX`, entry `SBOX[0xRC]` in row `Rx`, column `xC` (R102). -/
def sboxTable : List Byte :=
  [0x63#8, 0x7c#8, 0x77#8, 0x7b#8, 0xf2#8, 0x6b#8, 0x6f#8, 0xc5#8, 0x30#8, 0x01#8, 0x67#8, 0x2b#8, 0xfe#8, 0xd7#8, 0xab#8, 0x76#8] ++
  [0xca#8, 0x82#8, 0xc9#8, 0x7d#8, 0xfa#8, 0x59#8, 0x47#8, 0xf0#8, 0xad#8, 0xd4#8, 0xa2#8, 0xaf#8, 0x9c#8, 0xa4#8, 0x72#8, 0xc0#8] ++
  [0xb7#8, 0xfd#8, 0x93#8, 0x26#8, 0x36#8, 0x3f#8, 0xf7#8, 0xcc#8, 0x34#8, 0xa5#8, 0xe5#8, 0xf1#8, 0x71#8, 0xd8#8, 0x31#8, 0x15#8] ++
  [0x04#8, 0xc7#8, 0x23#8, 0xc3#8, 0x18#8, 0x96#8, 0x05#8, 0x9a#8, 0x07#8, 0x12#8, 0x80#8, 0xe2#8, 0xeb#8, 0x27#8, 0xb2#8, 0x75#8] ++
  [0x09#8, 0x83#8, 0x2c#8, 0x1a#8, 0x1b#8, 0x6e#8, 0x5a#8, 0xa0#8, 0x52#8, 0x3b#8, 0xd6#8, 0xb3#8, 0x29#8, 0xe3#8, 0x2f#8, 0x84#8] ++
  [0x53#8, 0xd1#8, 0x00#8, 0xed#8, 0x20#8, 0xfc#8, 0xb1#8, 0x5b#8, 0x6a#8, 0xcb#8, 0xbe#8, 0x39#8, 0x4a#8, 0x4c#8, 0x58#8, 0xcf#8] ++
  [0xd0#8, 0xef#8, 0xaa#8, 0xfb#8, 0x43#8, 0x4d#8, 0x33#8, 0x85#8, 0x45#8, 0xf9#8, 0x02#8, 0x7f#8, 0x50#8, 0x3c#8, 0x9f#8, 0xa8#8] ++
  [0x51#8, 0xa3#8, 0x40#8, 0x8f#8, 0x92#8, 0x9d#8, 0x38#8, 0xf5#8, 0xbc#8, 0xb6#8, 0xda#8, 0x21#8, 0x10#8, 0xff#8, 0xf3#8, 0xd2#8] ++
  [0xcd#8, 0x0c#8, 0x13#8, 0xec#8, 0x5f#8, 0x97#8, 0x44#8, 0x17#8, 0xc4#8, 0xa7#8, 0x7e#8, 0x3d#8, 0x64#8, 0x5d#8, 0x19#8, 0x73#8] ++
  [0x60#8, 0x81#8, 0x4f#8, 0xdc#8, 0x22#8, 0x2a#8, 0x90#8, 0x88#8, 0x46#8, 0xee#8, 0xb8#8, 0x14#8, 0xde#8, 0x5e#8, 0x0b#8, 0xdb#8] ++
  [0xe0#8, 0x32#8, 0x3a#8, 0x0a#8, 0x49#8, 0x06#8, 0x24#8, 0x5c#8, 0xc2#8, 0xd3#8, 0xac#8, 0x62#8, 0x91#8, 0x95#8, 0xe4#8, 0x79#8] ++
  [0xe7#8, 0xc8#8, 0x37#8, 0x6d#8, 0x8d#8, 0xd5#8, 0x4e#8, 0xa9#8, 0x6c#8, 0x56#8, 0xf4#8, 0xea#8, 0x65#8, 0x7a#8, 0xae#8, 0x08#8] ++
  [0xba#8, 0x78#8, 0x25#8, 0x2e#8, 0x1c#8, 0xa6#8, 0xb4#8, 0xc6#8, 0xe8#8, 0xdd#8, 0x74#8, 0x1f#8, 0x4b#8, 0xbd#8, 0x8b#8, 0x8a#8] ++
  [0x70#8, 0x3e#8, 0xb5#8, 0x66#8, 0x48#8, 0x03#8, 0xf6#8, 0x0e#8, 0x61#8, 0x35#8, 0x57#8, 0xb9#8, 0x86#8, 0xc1#8, 0x1d#8, 0x9e#8] ++
  [0xe1#8, 0xf8#8, 0x98#8, 0x11#8, 0x69#8, 0xd9#8, 0x8e#8, 0x94#8, 0x9b#8, 0x1e#8, 0x87#8, 0xe9#8, 0xce#8, 0x55#8, 0x28#8, 0xdf#8] ++
  [0x8c#8, 0xa1#8, 0x89#8, 0x0d#8, 0xbf#8, 0xe6#8, 0x42#8, 0x68#8, 0x41#8, 0x99#8, 0x2d#8, 0x0f#8, 0xb0#8, 0x54#8, 0xbb#8, 0x16#8]

/-- `INVSBOX`, same layout (R103). -/
def invSboxTable : List Byte :=
  [0x52#8, 0x09#8, 0x6a#8, 0xd5#8, 0x30#8, 0x36#8, 0xa5#8, 0x38#8, 0xbf#8, 0x40#8, 0xa3#8, 0x9e#8, 0x81#8, 0xf3#8, 0xd7#8, 0xfb#8] ++
  [0x7c#8, 0xe3#8, 0x39#8, 0x82#8, 0x9b#8, 0x2f#8, 0xff#8, 0x87#8, 0x34#8, 0x8e#8, 0x43#8, 0x44#8, 0xc4#8, 0xde#8, 0xe9#8, 0xcb#8] ++
  [0x54#8, 0x7b#8, 0x94#8, 0x32#8, 0xa6#8, 0xc2#8, 0x23#8, 0x3d#8, 0xee#8, 0x4c#8, 0x95#8, 0x0b#8, 0x42#8, 0xfa#8, 0xc3#8, 0x4e#8] ++
  [0x08#8, 0x2e#8, 0xa1#8, 0x66#8, 0x28#8, 0xd9#8, 0x24#8, 0xb2#8, 0x76#8, 0x5b#8, 0xa2#8, 0x49#8, 0x6d#8, 0x8b#8, 0xd1#8, 0x25#8] ++
  [0x72#8, 0xf8#8, 0xf6#8, 0x64#8, 0x86#8, 0x68#8, 0x98#8, 0x16#8, 0xd4#8, 0xa4#8, 0x5c#8, 0xcc#8, 0x5d#8, 0x65#8, 0xb6#8, 0x92#8] ++
  [0x6c#8, 0x70#8, 0x48#8, 0x50#8, 0xfd#8, 0xed#8, 0xb9#8, 0xda#8, 0x5e#8, 0x15#8, 0x46#8, 0x57#8, 0xa7#8, 0x8d#8, 0x9d#8, 0x84#8] ++
  [0x90#8, 0xd8#8, 0xab#8, 0x00#8, 0x8c#8, 0xbc#8, 0xd3#8, 0x0a#8, 0xf7#8, 0xe4#8, 0x58#8, 0x05#8, 0xb8#8, 0xb3#8, 0x45#8, 0x06#8] ++
  [0xd0#8, 0x2c#8, 0x1e#8, 0x8f#8, 0xca#8, 0x3f#8, 0x0f#8, 0x02#8, 0xc1#8, 0xaf#8, 0xbd#8, 0x03#8, 0x01#8, 0x13#8, 0x8a#8, 0x6b#8] ++
  [0x3a#8, 0x91#8, 0x11#8, 0x41#8, 0x4f#8, 0x67#8, 0xdc#8, 0xea#8, 0x97#8, 0xf2#8, 0xcf#8, 0xce#8, 0xf0#8, 0xb4#8, 0xe6#8, 0x73#8] ++
  [0x96#8, 0xac#8, 0x74#8, 0x22#8, 0xe7#8, 0xad#8, 0x35#8, 0x85#8, 0xe2#8, 0xf9#8, 0x37#8, 0xe8#8, 0x1c#8, 0x75#8, 0xdf#8, 0x6e#8] ++
  [0x47#8, 0xf1#8, 0x1a#8, 0x71#8, 0x1d#8, 0x29#8, 0xc5#8, 0x89#8, 0x6f#8, 0xb7#8, 0x62#8, 0x0e#8, 0xaa#8, 0x18#8, 0xbe#8, 0x1b#8] ++
  [0xfc#8, 0x56#8, 0x3e#8, 0x4b#8, 0xc6#8, 0xd2#8, 0x79#8, 0x20#8, 0x9a#8, 0xdb#8, 0xc0#8, 0xfe#8, 0x78#8, 0xcd#8, 0x5a#8, 0xf4#8] ++
  [0x1f#8, 0xdd#8, 0xa8#8, 0x33#8, 0x88#8, 0x07#8, 0xc7#8, 0x31#8, 0xb1#8, 0x12#8, 0x10#8, 0x59#8, 0x27#8, 0x80#8, 0xec#8, 0x5f#8] ++
  [0x60#8, 0x51#8, 0x7f#8, 0xa9#8, 0x19#8, 0xb5#8, 0x4a#8, 0x0d#8, 0x2d#8, 0xe5#8, 0x7a#8, 0x9f#8, 0x93#8, 0xc9#8, 0x9c#8, 0xef#8] ++
  [0xa0#8, 0xe0#8, 0x3b#8, 0x4d#8, 0xae#8, 0x2a#8, 0xf5#8, 0xb0#8, 0xc8#8, 0xeb#8, 0xbb#8, 0x3c#8, 0x83#8, 0x53#8, 0x99#8, 0x61#8] ++
  [0x17#8, 0x2b#8, 0x04#8, 0x7e#8, 0xba#8, 0x77#8, 0xd6#8, 0x26#8, 0xe1#8, 0x69#8, 0x14#8, 0x63#8, 0x55#8, 0x21#8, 0x0c#8, 0x7d#8]

/-- `SBOX[a]` (R102). -/
def sbox (a : Byte) : Byte := sboxTable.getD a.toNat 0#8

/-- `INVSBOX[a]` (R103). -/
def invSbox (a : Byte) : Byte := invSboxTable.getD a.toNat 0#8

/-- The affine map `A` of the S-box's definition (R102). -/
def sboxAffine (b : Byte) : Byte :=
  b ^^^ b.rotateLeft 1 ^^^ b.rotateLeft 2 ^^^ b.rotateLeft 3 ^^^ b.rotateLeft 4 ^^^ 0x63#8

/-! ## Round transformations. A block is the state's four columns (R100). -/

/-- `f` applied to each byte of a word. -/
def mapWord (f : Byte → Byte) (w : Word) : Word := ⟨f w.b0, f w.b1, f w.b2, f w.b3⟩

/-- `f` applied to each column of a block. -/
def mapColumns (f : Word → Word) (s : Block) : Block := ⟨f s.w0, f s.w1, f s.w2, f s.w3⟩

/-- `SubWord` (R109). -/
def subWord (w : Word) : Word := mapWord sbox w

/-- `SubBytes` (R104). -/
def subBytes (s : Block) : Block := mapColumns subWord s

/-- `InvSubBytes` (R104). -/
def invSubBytes (s : Block) : Block := mapColumns (mapWord invSbox) s

/-- `ShiftRows`: row `r` rotated left by `r`; the input indices in output order are
0 5 10 15 4 9 14 3 8 13 2 7 12 1 6 11 (R105). -/
def shiftRows (s : Block) : Block :=
  ⟨⟨s.w0.b0, s.w1.b1, s.w2.b2, s.w3.b3⟩,
   ⟨s.w1.b0, s.w2.b1, s.w3.b2, s.w0.b3⟩,
   ⟨s.w2.b0, s.w3.b1, s.w0.b2, s.w1.b3⟩,
   ⟨s.w3.b0, s.w0.b1, s.w1.b2, s.w2.b3⟩⟩

/-- `InvShiftRows`: row `r` rotated right by `r`; the input indices in output order are
0 13 10 7 4 1 14 11 8 5 2 15 12 9 6 3 (R105). -/
def invShiftRows (s : Block) : Block :=
  ⟨⟨s.w0.b0, s.w3.b1, s.w2.b2, s.w1.b3⟩,
   ⟨s.w1.b0, s.w0.b1, s.w3.b2, s.w2.b3⟩,
   ⟨s.w2.b0, s.w1.b1, s.w0.b2, s.w3.b3⟩,
   ⟨s.w3.b0, s.w2.b1, s.w1.b2, s.w0.b3⟩⟩

/-- One column of `MixColumns` (R106). -/
def mixColumn (a : Word) : Word :=
  ⟨gmul 2#8 a.b0 ^^^ gmul 3#8 a.b1 ^^^ a.b2 ^^^ a.b3,
   a.b0 ^^^ gmul 2#8 a.b1 ^^^ gmul 3#8 a.b2 ^^^ a.b3,
   a.b0 ^^^ a.b1 ^^^ gmul 2#8 a.b2 ^^^ gmul 3#8 a.b3,
   gmul 3#8 a.b0 ^^^ a.b1 ^^^ a.b2 ^^^ gmul 2#8 a.b3⟩

/-- One column of `InvMixColumns` (R106). -/
def invMixColumn (a : Word) : Word :=
  ⟨gmul 0x0e#8 a.b0 ^^^ gmul 0x0b#8 a.b1 ^^^ gmul 0x0d#8 a.b2 ^^^ gmul 0x09#8 a.b3,
   gmul 0x09#8 a.b0 ^^^ gmul 0x0e#8 a.b1 ^^^ gmul 0x0b#8 a.b2 ^^^ gmul 0x0d#8 a.b3,
   gmul 0x0d#8 a.b0 ^^^ gmul 0x09#8 a.b1 ^^^ gmul 0x0e#8 a.b2 ^^^ gmul 0x0b#8 a.b3,
   gmul 0x0b#8 a.b0 ^^^ gmul 0x0d#8 a.b1 ^^^ gmul 0x09#8 a.b2 ^^^ gmul 0x0e#8 a.b3⟩

/-- `MixColumns` (R106). -/
def mixColumns (s : Block) : Block := mapColumns mixColumn s

/-- `InvMixColumns` (R106). -/
def invMixColumns (s : Block) : Block := mapColumns invMixColumn s

/-- `AddRoundKey`, the block XOR (R107, R114). -/
def addRoundKey (s k : Block) : Block := s.xor k

/-! ## Key schedule -/

/-- `xtime` applied `n` times to 0x01. -/
def xtimePower : Nat → Byte
  | 0 => 0x01#8
  | n + 1 => xtime (xtimePower n)

/-- `RCON[j]` for `j >= 1` (R108). -/
def rcon (j : Nat) : Byte := xtimePower (j - 1)

/-- `RotWord` (R109). -/
def rotWord (w : Word) : Word := ⟨w.b1, w.b2, w.b3, w.b0⟩

/-- The value that `w[i-Nk]` is combined with to give `w[i]`, computed from `w[i-1]` (R109). -/
def scheduleCore (nk i : Nat) (prev : Word) : Word :=
  if i % nk = 0 then (subWord (rotWord prev)).xor ⟨rcon (i / nk), 0#8, 0#8, 0#8⟩
  else if nk = 8 ∧ i % nk = 4 then subWord prev
  else prev

/-- The words `w[0 .. i+n)`, latest first, from the words `w[0 .. i)`, latest first (R109). -/
def expandWords (nk : Nat) : Nat → Nat → List Word → List Word
  | 0, _, ws => ws
  | n + 1, i, ws =>
    expandWords nk n (i + 1) (((ws.getD (nk - 1) .zero).xor (scheduleCore nk i (ws.getD 0 .zero))) :: ws)

/-- The first `n` words of a byte sequence, in order (R109). -/
def keyWords : Nat → List Byte → List Word
  | 0, _ => []
  | n + 1, bs => wordOfBytes bs :: keyWords n (bs.drop 4)

/-- Round keys: four consecutive words each (R109). -/
def groupWords : List Word → List Block
  | a :: b :: c :: d :: ws => ⟨a, b, c, d⟩ :: groupWords ws
  | _ => []

/-- The words `w[0] .. w[4*(NR+1)-1]` of the key schedule, in order (R109). -/
def scheduleWords (v : KeyVariant) (k : List Byte) : List Word :=
  (expandWords v.words (4 * (v.rounds + 1) - v.words) v.words (keyWords v.words k).reverse).reverse

/-- `KeyExpansion(k)` for a key of the variant's length: the `NR + 1` round keys (R109). -/
def keyExpansion (v : KeyVariant) (k : List Byte) : List Block := groupWords (scheduleWords v k)

/-- The round-key file with the round keys `ks` in its first entries; an entry beyond them keeps what it holds, and is
not meaningful (R23, log 11). -/
def loadSchedule (rk : Vector Block 15) (ks : List Block) : Vector Block 15 :=
  Vector.ofFn fun i => ks.getD i.val rk[i]

/-- `RK[r]`. Used for `r <= NR` only. -/
def roundKey (rk : Vector Block 15) (r : Nat) : Block := rk.toList.getD r .zero

/-- The round keys `RK[0 .. NR]` (R23). -/
def schedule (v : KeyVariant) (rk : Vector Block 15) : List Block := rk.toList.take (v.rounds + 1)

/-! ## The cipher and its inverse -/

/-- One of the rounds `1 .. NR-1` of `E` (R111). -/
def encRound (rk : Vector Block 15) (s : Block) (r : Nat) : Block :=
  addRoundKey (mixColumns (shiftRows (subBytes s))) (roundKey rk r)

/-- `E(RK, b)` (R111). -/
def encryptBlock (v : KeyVariant) (rk : Vector Block 15) (b : Block) : Block :=
  let s := (List.range' 1 (v.rounds - 1)).foldl (encRound rk) (addRoundKey b (roundKey rk 0))
  addRoundKey (shiftRows (subBytes s)) (roundKey rk v.rounds)

/-- One of the rounds `NR-1` down to 1 of `D` (R112). -/
def decRound (rk : Vector Block 15) (s : Block) (r : Nat) : Block :=
  invMixColumns (addRoundKey (invSubBytes (invShiftRows s)) (roundKey rk r))

/-- `D(RK, b)` (R112). -/
def decryptBlock (v : KeyVariant) (rk : Vector Block 15) (b : Block) : Block :=
  let s := (List.range' 1 (v.rounds - 1)).reverse.foldl (decRound rk) (addRoundKey b (roundKey rk v.rounds))
  addRoundKey (invSubBytes (invShiftRows s)) (roundKey rk 0)

end Sys2Proof.Machine
end

