-- ==== Sys2Proof/Machine/Construct.lean ====
section
/-! DEFINITION. The CONSTRUCT command (spec/42_construct.md R130 to R135). -/

namespace Sys2Proof.Machine

/-- `KEY[0 .. n)`. A byte of KEY always has a value (R69), so the default is never used. -/
def State.keyBytes (s : State) (n : Nat) : List Byte := (List.range n).map fun j => (s.load .key j).getD 0#8

/-- The engine step at `K_INIT` (R131): latch KEYLEN, discard the old schedule, check the length. NK, of
which any value will do while KEYED is 0 (U5), is kept: DESIGN CHOICE (log 17). -/
def constructInit (s : State) : State :=
  let t := { s with klen := s.keylen.toNat, keyed := false, rk := .replicate 15 .zero }
  match variantOf t.klen with
  | none => raise .invalidKeySize t
  | some _ => { t with phase := .kExpand }

/-- The engine step at `K_EXPAND` (R132). Its fault stands for KeyExpansion on a length it is undefined on (R109),
which `K_INIT` lets no run reach (log 10). -/
def constructExpand (s : State) : Result :=
  match variantOf s.klen with
  | none => .fault (.keyLengthUndefined s.klen)
  | some v =>
    .next (finish { s with
      nk := v
      rk := loadSchedule s.rk (keyExpansion v (s.keyBytes s.klen))
      keyed := true })

/-- The next step of CONSTRUCT: its issue when the engine is idle (R83), the engine step of its phase when it is in
flight, nothing while another command is in flight (R64, log 9). -/
def execConstruct (s : State) : Result :=
  match s.phase with
  | .idle => .next (issue .kInit s)
  | .kInit => .next (constructInit s)
  | .kExpand => constructExpand s
  | .eInit | .ePad | .eGenIv | .eChain | .dInit | .dSplitIv | .dValidate | .dChain | .dStrip => .next s

end Sys2Proof.Machine
end

