-- ==== Sys2Proof/Machine/Decrypt.lean ====
section
/-! DEFINITION. The DECRYPT command (spec/44_decrypt.md R160 to R171). -/

namespace Sys2Proof.Machine

/-- The engine step at `D_INIT` (R161): latch INLEN, then the three checks in their order. -/
def decryptInit (s : State) : State :=
  let t := { s with len := s.inlen.toNat }
  if t.keyed = false then raise .notKeyed t
  else if t.cap < t.len then raise .inputTooLong t
  else if t.len < 16 then raise .ciphertextTooShort t
  else { t with phase := .dSplitIv }

/-- The engine step at `D_SPLITIV` (R162). -/
def decryptSplitIv (s : State) : Result :=
  match s.loadBlock .inBuf 0 with
  | .error off => .fault (.unwrittenInput off)
  | .ok iv => .next { s with ivreg := iv, chain := iv, phase := .dValidate }

/-- The engine step at `D_VALIDATE` (R163). -/
def decryptValidate (s : State) : State :=
  if (s.len - 16) % 16 ≠ 0 then raise .misalignedCiphertext s
  else { s with wlen := s.len - 16, nblk := (s.len - 16) / 16, idx := 1, phase := .dChain }

/-- The engine step at `D_CHAIN` for block `IDX <= NBLK` (R164). -/
def decryptBlockStep (s : State) : Result :=
  match s.loadBlock .inBuf (16 * s.idx) with
  | .error off => .fault (.unwrittenInput off)
  | .ok c =>
    .next { s with
      work := Memory.writeBlock (unlisted .work) s.work (16 * (s.idx - 1)) ((decryptBlock s.nk s.rk c).xor s.chain)
      chain := c
      idx := s.idx + 1 }

/-- The engine step at `D_CHAIN` (R164). IDX is at least 1 (R26); for 0 there is no rule (log 10). -/
def decryptChain (s : State) : Result :=
  if s.idx = 0 then .fault (.blockIndexUndefined s.idx)
  else if s.idx ≤ s.nblk then decryptBlockStep s
  else .next { s with phase := .dStrip }

/-- The engine step at `D_STRIP` (R165): the bytes before the first zero byte are the result. -/
def decryptStrip (s : State) : Result :=
  match s.loadRange .work 0 s.wlen with
  | .error off => .fault (.unwrittenWork off)
  | .ok bs =>
    .next (finish { s with
      outBuf := Memory.writeRange (unlisted .outBuf) s.outBuf 0 (strip bs)
      outlen := BitVec.ofNat 32 (strip bs).length })

/-- The next step of DECRYPT: its issue when the engine is idle (R83), the engine step of its phase when it is in
flight, nothing while another command is in flight (R64, log 9). -/
def execDecrypt (s : State) : Result :=
  match s.phase with
  | .idle => .next (issue .dInit s)
  | .dInit => .next (decryptInit s)
  | .dSplitIv => decryptSplitIv s
  | .dValidate => .next (decryptValidate s)
  | .dChain => decryptChain s
  | .dStrip => decryptStrip s
  | .kInit | .kExpand | .eInit | .ePad | .eGenIv | .eChain => .next s

end Sys2Proof.Machine
end

