-- ==== Sys2Proof/Machine/Encrypt.lean ====
section
/-! DEFINITION. The ENCRYPT command (spec/43_encrypt.md R140 to R151). -/

namespace Sys2Proof.Machine

/-- The engine step at `E_INIT` (R141): latch INLEN, then the two checks in their order. -/
def encryptInit (s : State) : State :=
  let t := { s with len := s.inlen.toNat }
  if t.keyed = false then raise .notKeyed t
  else if t.maxPt < t.len then raise .inputTooLong t
  else { t with phase := .ePad }

/-- The engine step at `E_PAD` (R142): the padded plaintext goes to WORK, the request is sent. -/
def encryptPad (s : State) : Result :=
  match s.loadRange .inBuf 0 s.len with
  | .error off => .fault (.unwrittenInput off)
  | .ok bs =>
    .next { s with
      work := Memory.writeRange (unlisted .work) s.work 0 (padded bs)
      wlen := ceil16 s.len
      nblk := ceil16 s.len / 16
      rngPending := true
      rngReqs := s.rngReqs + 1
      phase := .eGenIv }

/-- The step at `E_GENIV` (R143), enabled when an answer stands at the port; until then nothing happens (R196 (d),
U6). -/
def encryptGenIv (s : State) : State :=
  match s.answer with
  | none => s
  | some .fail => raise .randomness { s with rngPending := false }
  | some (.ok iv) =>
    { s with
      outBuf := Memory.writeBlock (unlisted .outBuf) s.outBuf 0 iv
      rngPending := false
      ivreg := iv
      chain := iv
      idx := 1
      phase := .eChain }

/-- The engine step at `E_CHAIN` for block `IDX <= NBLK` (R144). -/
def encryptBlockStep (s : State) : Result :=
  match s.loadBlock .work (16 * (s.idx - 1)) with
  | .error off => .fault (.unwrittenWork off)
  | .ok p =>
    let c := encryptBlock s.nk s.rk (p.xor s.chain)
    .next { s with
      outBuf := Memory.writeBlock (unlisted .outBuf) s.outBuf (16 * s.idx) c
      chain := c
      idx := s.idx + 1 }

/-- The engine step at `E_CHAIN` with `IDX = NBLK + 1` (R145): the end of the command. -/
def encryptEnd (s : State) : State := finish { s with outlen := BitVec.ofNat 32 (16 + s.wlen) }

/-- The engine step at `E_CHAIN` (R144, R145). IDX is in 1 .. NBLK + 1 (R26); for other values there is no rule
(log 10). -/
def encryptChain (s : State) : Result :=
  if s.idx = 0 then .fault (.blockIndexUndefined s.idx)
  else if s.idx ≤ s.nblk then encryptBlockStep s
  else if s.idx = s.nblk + 1 then .next (encryptEnd s)
  else .fault (.blockIndexUndefined s.idx)

/-- The next step of ENCRYPT: its issue when the engine is idle (R83), the step of its phase when it is in flight,
nothing while another command is in flight (R64, log 9). -/
def execEncrypt (s : State) : Result :=
  match s.phase with
  | .idle => .next (issue .eInit s)
  | .eInit => .next (encryptInit s)
  | .ePad => encryptPad s
  | .eGenIv => .next (encryptGenIv s)
  | .eChain => encryptChain s
  | .kInit | .kExpand | .dInit | .dSplitIv | .dValidate | .dChain | .dStrip => .next s

end Sys2Proof.Machine
end

