-- ==== Sys2Proof/Machine/Flags.lean ====
section
/-! DEFINITION. The flags and the values of the status registers, computed from the state
(spec/10_state.md R32, R33, spec/60_exceptions.md R181). -/

namespace Sys2Proof.Machine

/-- The code of an error kind in `ERR[3:0]` (R181). -/
def ErrorKind.code : ErrorKind → BitVec 4
  | .invalidKeySize => 1#4
  | .randomness => 2#4
  | .ciphertextTooShort => 3#4
  | .misalignedCiphertext => 4#4
  | .notKeyed => 5#4
  | .inputTooLong => 6#4
  | .illegalCommand => 7#4

/-- `ERR[3:0]`: 0 when there is no error (R33, R181). -/
def errCode : Option ErrorKind → BitVec 4
  | none => 0#4
  | some k => k.code

/-- The register ERR: the code in bits 3:0, bits 31:4 zero (R33). -/
def errWord (s : State) : Reg32 := 0#28 ++ errCode s.err

/-- The flag `STATUS.ERROR`: 1 exactly when `DONE = 1` and `ERR != 0` (R32). -/
def State.errorFlag (s : State) : Bool := s.done && s.err.isSome

/-- The register STATUS: KEYED, ERROR, DONE, BUSY in bits 3, 2, 1, 0, bits 31:4 zero (R32). -/
def statusWord (s : State) : Reg32 :=
  0#28 ++ BitVec.ofBool s.keyed ++ BitVec.ofBool s.errorFlag ++ BitVec.ofBool s.done ++ BitVec.ofBool s.busy

end Sys2Proof.Machine
end

