-- ==== Sys2Proof/Machine/Agents.lean ====
section
/-! DEFINITION. The agents that take steps: the engine with the random source, and the host through its port
(spec/00_scope.md R10, spec/20_memory.md R50 to R64, spec/30_encoding.md R80 to R83). -/

namespace Sys2Proof.Machine

/-- The command in flight (R24). -/
def Phase.command : Phase → Option Instr
  | .idle => none
  | .kInit | .kExpand => some .construct
  | .eInit | .ePad | .eGenIv | .eChain => some .encrypt
  | .dInit | .dSplitIv | .dValidate | .dChain | .dStrip => some .decrypt

/-- The engine's turn: the next step of the command in flight; an idle engine holds its state (R83, R200, R212). -/
def engineTurn (s : State) : Result :=
  match s.phase.command with
  | none => .next s
  | some i => exec i s

/-! ## Host accesses -/

/-- A write of `v` to CMD while the engine is idle (R31, R83): decode, then issue, or end at once with
`IllegalCommand` (R78, R188). -/
def commandWrite (v : Reg32) (s : State) : Result :=
  match decode v with
  | .ok i => exec i s
  | .error _ => .next (raise .illegalCommand (issueClear s))

/-- A write of `v` to CSR number `n`. Ignored while busy (R64); STATUS, ERR, OUTLEN and absent registers ignore writes
(R32, R33, R36, R37). -/
def writeCsr (n : Nat) (v : Reg32) (s : State) : Result :=
  if s.busy then .next s
  else match n with
    | 0 => commandWrite v s
    | 3 => .next { s with keylen := v }
    | 4 => .next { s with inlen := v }
    | _ => .next s

/-- The value a read of CSR number `n` returns. CMD and absent registers read as 0 (R31, R37). While busy ERR and
OUTLEN return 0 (R64). -/
def readCsr (n : Nat) (s : State) : Reg32 :=
  match n with
  | 1 => statusWord s
  | 2 => if s.busy then 0#32 else errWord s
  | 3 => s.keylen
  | 4 => s.inlen
  | 5 => if s.busy then 0#32 else s.outlen
  | _ => 0#32

/-- A host write of byte `b` at offset `off`. Ignored while busy (R64), in OUT (R53), and out of range (R59). -/
def writeByte (sp : Space) (off : Nat) (b : Byte) (s : State) : State :=
  if s.busy then s
  else match sp with
    | .key => if off < Config.keySpaceBytes then s.store .key off b else s
    | .inBuf => if off < s.cap then s.store .inBuf off b else s
    | .outBuf => s

/-- The byte `some b`, or a draw (R60). -/
def orDraw (s : State) : Option Byte → Byte × State
  | some b => (b, s)
  | none => drawByte s

/-- The byte a host read returns, and the state after it. KEY reads 0x00 at every offset (R51), an offset out of range
reads 0 (R59), a byte without a value is a draw: one of IN never written (R52, R69), or one of OUT outside a valid
result (R53). -/
def readByte (sp : Space) (off : Nat) (s : State) : Byte × State :=
  match sp with
  | .key => (0#8, s)
  | .inBuf => if off < s.cap then orDraw s (s.load .inBuf off) else (0#8, s)
  | .outBuf =>
    if off < s.cap then orDraw s (if s.outValid off then s.load .outBuf off else none) else (0#8, s)

/-- Note a value that a read of the host returned (R82). -/
def State.noteRead (s : State) (r : ReadValue) : State := { s with reads := s.reads ++ [r] }

/-- `RD` of CSR number `n`. -/
def hostRead (n : Nat) (s : State) : State := s.noteRead (.csr (readCsr n s))

/-- `RB` at `sp + off`. -/
def hostReadByte (sp : Space) (off : Nat) (s : State) : State :=
  (readByte sp off s).2.noteRead (.byte (readByte sp off s).1)

/-! ## Host programs: the pseudo-operations of R81 as lines -/

/-- `WB sp+off, b` for consecutive offsets. -/
def writeLines (sp : Space) : Nat → List Byte → List HostLine
  | _, [] => []
  | off, b :: bs => .wb sp off b :: writeLines sp (off + 1) bs

/-- `LOADKEY h` (R81). -/
def loadKeyLines (h : List Byte) : List HostLine := writeLines .key 0 h ++ [.wr 3 (BitVec.ofNat 32 h.length)]

/-- `LOADIN h` (R81). -/
def loadInLines (h : List Byte) : List HostLine := writeLines .inBuf 0 h ++ [.wr 4 (BitVec.ofNat 32 h.length)]

/-- `CONSTRUCT`, `ENCRYPT` or `DECRYPT` as a pseudo-operation: `WR CMD, code; WAIT` (R81). -/
def commandLines (i : Instr) : List HostLine := [.wr 0 (encode i), .wait]

/-- `RB OUT+0` .. `RB OUT+(m-1)` (R81). -/
def readOutLines (m : Nat) : List HostLine := (List.range m).map (.rb .outBuf)

/-- The byte of a read, if it was a byte read. -/
def ReadValue.byte? : ReadValue → Option Byte
  | .csr _ => none
  | .byte b => some b

/-- The last `m` bytes the host has read, oldest first. -/
def State.lastBytes (s : State) (m : Nat) : List Byte :=
  ((s.reads.filterMap ReadValue.byte?).reverse.take m).reverse

/-- The lines as events, before the events still to come. -/
def State.before (s : State) (ls : List HostLine) : State := { s with inputs := ls.map .host ++ s.inputs }

/-- The host performs one line (R80). `WAIT` is a loop of reads: while DONE is 0 the engine gets a turn and the host
reads again; the lines that depend on what was read become more lines (R81, log 14). -/
def hostLine (l : HostLine) (s : State) : Result :=
  match l with
  | .wr n v => writeCsr n v s
  | .rd n => .next (hostRead n s)
  | .wb sp off b => .next (writeByte sp off b s)
  | .rb sp off => .next (hostReadByte sp off s)
  | .wait =>
    let t := hostRead 1 s
    if s.done then .next t else .next { t with inputs := .engine :: .host .wait :: t.inputs }
  | .readout => .next ((hostRead 5 s).before (readOutLines (readCsr 5 s).toNat))
  | .copyout =>
    .next ((hostRead 5 s).before (readOutLines (readCsr 5 s).toNat ++ [.loadRead (readCsr 5 s).toNat]))
  | .loadRead m => .next (s.before (loadInLines (s.lastBytes m)))
  | .undefined => .refused .undefinedAccess

/-- One event, taken from the front of the events to come. -/
def perform (e : Event) (s : State) : Result :=
  match e with
  | .engine => engineTurn s
  | .host l => hostLine l s
  | .reset => .next (resetEngine s)
  | .silence b => .next { s with rngSilent := b }

end Sys2Proof.Machine
end

