-- ==== Sys2Proof/Machine/Step.lean ====
section
/-! DEFINITION. One step of the machine: the next event of the one total order (spec/20_memory.md R65), and, when no
event is written down, the engine's turn (spec/30_encoding.md R83). Log 2, log 3. -/

namespace Sys2Proof.Machine

/-- One step. With no event to come the engine takes the command in flight on by itself (R83); an idle engine holds its
state (R212). -/
def step (s : State) : Host.Outcome State Fault Refusal :=
  match s.inputs with
  | [] => engineTurn s
  | e :: es => perform e { s with inputs := es }

/-- `s` with the host's write of the word to CMD as the next event, and the engine idle so that the write is accepted
(R31, R64): the engine has no instruction memory (R39), a command comes from the host (log 3). -/
def State.withFetchWord (s : State) (nbits w : Nat) : State :=
  { s with
    phase := .idle
    rngPending := false
    inputs := .host (.wr 0 (BitVec.ofNat 32 (w % 2 ^ nbits))) :: s.inputs }

end Sys2Proof.Machine
end

