-- ==== Sys2Proof/Machine/Functions.lean ====
section
/-! DEFINITION. The commands as functions on byte sequences, which claims compare the machine with
(spec/43_encrypt.md R146, spec/44_decrypt.md R167). No step uses them. -/

namespace Sys2Proof.Machine

/-- The first `n` blocks of a byte sequence. Used on at least `16 * n` bytes. -/
def blocksOf : Nat → List Byte → List Block
  | 0, _ => []
  | n + 1, bs => blockOfBytes bs :: blocksOf n (bs.drop 16)

/-- The bytes of a sequence of blocks. -/
def bytesOf (bs : List Block) : List Byte := bs.flatMap blockBytes

/-- `C_i = E(RK, P_i XOR C_{i-1})`, with `C_0` given first (R146). -/
def chainEncrypt (v : KeyVariant) (rk : Vector Block 15) : Block → List Block → List Block
  | _, [] => []
  | prev, p :: ps =>
    encryptBlock v rk (p.xor prev) :: chainEncrypt v rk (encryptBlock v rk (p.xor prev)) ps

/-- `P_i = D(RK, C_i) XOR C_{i-1}`, with `C_0` given first (R167). -/
def chainDecrypt (v : KeyVariant) (rk : Vector Block 15) : Block → List Block → List Block
  | _, [] => []
  | prev, c :: cs => (decryptBlock v rk c).xor prev :: chainDecrypt v rk c cs

/-- `Enc(RK, P, iv)` (R146). -/
def encBlob (v : KeyVariant) (rk : Vector Block 15) (p : List Byte) (iv : Block) : List Byte :=
  blockBytes iv ++ bytesOf (chainEncrypt v rk iv (blocksOf (ceil16 p.length / 16) (padded p)))

/-- The decrypted buffer of a blob of legal length: `P_1 || .. || P_n` (R167). -/
def decBuffer (v : KeyVariant) (rk : Vector Block 15) (b : List Byte) : List Byte :=
  bytesOf (chainDecrypt v rk (blockOfBytes b) (blocksOf ((b.length - 16) / 16) (b.drop 16)))

/-- `Dec(RK, B)` (R167). -/
def decBlob (v : KeyVariant) (rk : Vector Block 15) (b : List Byte) : Except ErrorKind (List Byte) :=
  if b.length < 16 then .error .ciphertextTooShort
  else if (b.length - 16) % 16 ≠ 0 then .error .misalignedCiphertext
  else .ok (strip (decBuffer v rk b))

end Sys2Proof.Machine
end

