-- ==== Sys2Proof/WellFormed.lean ====
section
/-! DEFINITION. Well-formedness of what the spec gives a form to: the commands, the parameter MAX_PT, the data
formats and the host's lines (spec/00_scope.md R7, spec/30_encoding.md R70 to R82). -/

namespace Sys2Proof

/-- Every command is well-formed: the CMD word has no operand field (R71, R73). -/
def Instr.wf (_ : Instr) : Bool := true

/-- The constraint on MAX_PT (R7): a multiple of 16, at least 16, `MAX_PT + 16 < 2^32`. -/
def maxPtOk (n : Nat) : Bool := n % 16 == 0 && decide (16 ≤ n) && decide (n + 16 < 2 ^ 32)

/-- The legal key lengths in bytes (R75). -/
def keyFormatOk (len : Nat) : Bool := len == 16 || len == 24 || len == 32

/-- The plaintext format: 0 to MAX_PT bytes (R76). -/
def plaintextFormatOk (maxPt len : Nat) : Bool := decide (len ≤ maxPt)

/-- The blob format: `16 + 16n` bytes (R77), at most CAP (R52). -/
def blobFormatOk (maxPt len : Nat) : Bool :=
  decide (16 ≤ len) && (len - 16) % 16 == 0 && decide (len ≤ maxPt + 16)

/-- The size in bytes of a host-visible space (R29, R51 to R53). -/
def spaceSize (maxPt : Nat) : Machine.Space → Nat
  | .key => Config.keySpaceBytes
  | .inBuf => maxPt + 16
  | .outBuf => maxPt + 16

/-- A line that R80 and R81 write: an existing CSR, a write to KEY or IN, a byte inside its space. The engine also
answers every other line (R37, R53, R59), except an access its port does not define (U7). -/
def Machine.HostLine.wf (maxPt : Nat) : Machine.HostLine → Bool
  | .wr n _ => decide (n < 6)
  | .rd n => decide (n < 6)
  | .wb sp off _ => sp != .outBuf && decide (off < spaceSize maxPt sp)
  | .rb sp off => decide (off < spaceSize maxPt sp)
  | .wait => true
  | .readout => true
  | .copyout => true
  | .loadRead m => decide (m ≤ maxPt + 16)
  | .undefined => false

end Sys2Proof
end

