-- ==== Sys2Proof/Safety.lean ====
section
/-! DEFINITION. What claims call a good state and a safe stop: the invariant of the machine, which holds in every
reachable state (spec/10_state.md R42 and the ranges of R25 to R28), and the named premise on the random source
(spec/92_eei_decisions.md D15). -/

namespace Sys2Proof.Machine

/-- Each space is in canonical form and lists no offset outside it (R51, R52, R53, R27). -/
def State.MemOk (s : State) : Prop :=
  Memory.wf (unlisted .key) s.key = true ∧ Memory.within Config.keySpaceBytes s.key = true ∧
  Memory.wf (unlisted .inBuf) s.inBuf = true ∧ Memory.within s.cap s.inBuf = true ∧
  Memory.wf (unlisted .outBuf) s.outBuf = true ∧ Memory.within s.cap s.outBuf = true ∧
  Memory.wf (unlisted .work) s.work = true ∧ Memory.within s.maxPt s.work = true

/-- A keyed engine holds the schedule of some key of its variant (R42 (e)). -/
def State.KeyedOk (s : State) : Prop :=
  s.keyed = true → ∃ k : List Byte, k.length = 4 * s.nk.words ∧ schedule s.nk s.rk = keyExpansion s.nk k

/-- Every offset below `n` of a space has a value. -/
def State.written (s : State) (r : Region) (n : Nat) : Prop := ∀ off, off < n → (s.load r off).isSome = true

/-- The registers the host reads: R42 (b), (f), (g), (h); ERR and OUTLEN 0 while busy (R64); a result has all its
bytes (R53). -/
def State.StatusOk (s : State) : Prop :=
  (s.done = true → s.phase = .idle) ∧
  (s.phase ≠ .idle → s.err = none ∧ s.outlen = 0#32) ∧
  (s.done = true → s.err ≠ none → s.outlen = 0#32) ∧
  s.outlen.toNat ≤ s.cap ∧
  (s.done = true → s.err = none → s.written .outBuf s.outlen.toNat) ∧
  (s.rngPending = true ↔ s.phase = .eGenIv)

/-- What ENCRYPT has ready once it has padded (R142). -/
def State.padReady (s : State) : Prop :=
  s.wlen = ceil16 s.len ∧ s.nblk = s.wlen / 16 ∧ s.written .work s.wlen

/-- ENCRYPT past its checks (R141): keyed, the length latched and within MAX_PT. -/
def State.encChecked (s : State) : Prop := s.keyed = true ∧ s.len = s.inlen.toNat ∧ s.len ≤ s.maxPt

/-- DECRYPT past its first checks (R161): keyed, the length latched, at least 16 and within CAP. -/
def State.decChecked (s : State) : Prop :=
  s.keyed = true ∧ s.len = s.inlen.toNat ∧ 16 ≤ s.len ∧ s.len ≤ s.cap

/-- DECRYPT past the alignment check (R163). -/
def State.decAligned (s : State) : Prop :=
  s.decChecked ∧ (s.len - 16) % 16 = 0 ∧ s.wlen = s.len - 16 ∧ s.nblk = s.wlen / 16

/-- What each phase may rely on: the latches (R25), the ranges of the chaining registers (R26), WORK written before
it is read (R27). -/
def State.PhaseOk (s : State) : Prop :=
  match s.phase with
  | .idle | .kInit | .eInit | .dInit => True
  | .kExpand => s.keyed = false ∧ s.klen = s.keylen.toNat ∧ (variantOf s.klen).isSome = true
  | .ePad => s.encChecked
  | .eGenIv => s.encChecked ∧ s.padReady
  | .eChain => s.encChecked ∧ s.padReady ∧ 1 ≤ s.idx ∧ s.idx ≤ s.nblk + 1 ∧ s.written .outBuf (16 * s.idx)
  | .dSplitIv | .dValidate => s.decChecked
  | .dChain => s.decAligned ∧ 1 ≤ s.idx ∧ s.idx ≤ s.nblk + 1 ∧ s.written .work (16 * (s.idx - 1))
  | .dStrip => s.decAligned ∧ s.idx = s.nblk + 1 ∧ s.written .work s.wlen

/-- The invariant of the machine. -/
def State.Inv (s : State) : Prop :=
  maxPtOk s.maxPt = true ∧ s.MemOk ∧ s.KeyedOk ∧ s.StatusOk ∧ s.PhaseOk

/-- The one fault a run from reset can end in: an operand byte of IN that the host has not written (R69, U2). -/
def Fault.isUnwrittenInput : Fault → Bool
  | .unwrittenInput _ => true
  | .unwrittenWork _ => false
  | .keyLengthUndefined _ => false
  | .blockIndexUndefined _ => false

/-- `IVFresh`: the random source answers distinct requests with distinct IVs, as far as its answers are written down
(D15, R150). A property of the source, which the engine neither checks nor enforces. -/
def State.IvFresh (s : State) : Prop :=
  ∀ (m n : Nat) (iv : Block), s.rngScript[m]? = some (RngResp.ok iv) → s.rngScript[n]? = some (RngResp.ok iv) → m = n

/-- Every space is in canonical form. -/
def State.canonical (s : State) : Prop := ∀ r, Memory.wf (unlisted r) (s.region r) = true

/-- The engine is not kept waiting: the random source answers (R225's fairness; R196 (d)). -/
def State.sourceAnswers (s : State) : Prop := s.rngSilent = false

end Sys2Proof.Machine
end

