-- ==== Sys2Proof/Certificates/Slice0/Obligations.lean ====
section
/-! DEFINITION. The statements for the provers. Each docstring names the rule of spec/ it formalises. -/

open Sys2Proof Sys2Proof.Machine

/-! ## The CMD word -/

/-- R71, R72: the decoder accepts exactly the three words of the table, each as its command; decoding and encoding
agree. -/
def Obligations.CmdWordDecodesExactlyThreeCommands : Prop :=
  (∀ v i, decode v = .ok i ↔ encode i = v) ∧
  encode .construct = 0x00000001#32 ∧ encode .encrypt = 0x00000002#32 ∧ encode .decrypt = 0x00000003#32

/-- R78: which words are rejected, and under which name of the model. -/
def Obligations.OtherCmdWordsRejectedByName : Prop :=
  ∀ v : BitVec 32,
    (decode v = .error .zeroFieldNonzero ↔ 16 ≤ v.toNat) ∧
    (∀ op, decode v = .error (.reservedOp op) ↔ v = 0#28 ++ op ∧ op ≠ 1#4 ∧ op ≠ 2#4 ∧ op ≠ 3#4)

/-- R72 and vector T-ILL of section 6 of 95: sample words, written out bit by bit. -/
def Obligations.SampleCmdWordsDecode : Prop :=
  decode 0b0000_0000_0000_0000_0000_0000_0000_0001#32 = .ok .construct ∧
  decode 0b0000_0000_0000_0000_0000_0000_0000_0010#32 = .ok .encrypt ∧
  decode 0b0000_0000_0000_0000_0000_0000_0000_0011#32 = .ok .decrypt ∧
  decode 0x00000000#32 = .error (.reservedOp 0#4) ∧ decode 0x0000000f#32 = .error (.reservedOp 15#4) ∧
  decode 0x00000011#32 = .error .zeroFieldNonzero ∧ decode 0x80000002#32 = .error .zeroFieldNonzero

/-- R83: a write of `v` to CMD. While a command is in flight it is ignored; while the engine is idle it clears DONE,
ERR and OUTLEN and moves to the command's first phase, or ends at once with `IllegalCommand`. BUSY and ERROR are
computed from what is shown here. OUT becomes unspecified (`m`). That the working registers and WORK keep their values
outside a call is the model's choice (log 17). -/
def Obligations.CmdWriteIssuesOrEndsIllegal : Prop :=
  ∀ (s : State) (v : Reg32),
    (s.phase ≠ .idle → writeCsr 0 v s = .next s) ∧
    (s.phase = .idle → ∃ m : Memory,
      (v = 1#32 → writeCsr 0 v s = .next
        { s with done := false, err := none, outlen := 0#32, outBuf := m, phase := .kInit }) ∧
      (v = 2#32 → writeCsr 0 v s = .next
        { s with done := false, err := none, outlen := 0#32, outBuf := m, phase := .eInit }) ∧
      (v = 3#32 → writeCsr 0 v s = .next
        { s with done := false, err := none, outlen := 0#32, outBuf := m, phase := .dInit }) ∧
      (v ≠ 1#32 → v ≠ 2#32 → v ≠ 3#32 → writeCsr 0 v s = .next
        { s with
          done := true, err := some .illegalCommand, outlen := 0#32, outBuf := m, phase := .idle,
          rngPending := false }))

/-- R83: the issue of each command, as the meaning of its instruction in an idle engine (log 9). That OUT, which
becomes unspecified, then holds no value is the model's form (log 8). That the working registers and WORK keep their
values outside a call is the model's choice (log 17). -/
def Obligations.IdleEngineIssuesCommand : Prop :=
  ∀ s : State, s.phase = .idle →
    exec .construct s = .next
      { s with done := false, err := none, outlen := 0#32, outBuf := [], phase := .kInit } ∧
    exec .encrypt s = .next
      { s with done := false, err := none, outlen := 0#32, outBuf := [], phase := .eInit } ∧
    exec .decrypt s = .next
      { s with done := false, err := none, outlen := 0#32, outBuf := [], phase := .dInit }

/-! ## The step -/

/-- The next event is a write of a word to CMD in an idle engine, and the word decodes: the step is that command's
meaning on the state whose event is taken (R31, R83). The same of the host's `withFetchWord`. -/
def Obligations.StepRunsDecodedCommand : Prop :=
  (∀ (s : State) (v : Reg32) (es : List Event) (i : Instr),
    s.inputs = .host (.wr 0 v) :: es → s.phase = .idle → decode v = .ok i →
      step s = exec i { s with inputs := es }) ∧
  (∀ (s : State) (i : Instr),
    step (s.withFetchWord 32 (encode i).toNat) = exec i { s with phase := .idle, rngPending := false })

/-- R83, R212: with no event to come, or on the engine's turn, the step is the next step of the command in flight; an
idle engine holds its state. -/
def Obligations.EngineTurnAdvancesCommandInFlight : Prop :=
  ∀ s : State,
    (s.inputs = [] → s.phase = .idle → step s = .next s) ∧
    (∀ i, s.inputs = [] → s.phase.command = some i → step s = exec i s) ∧
    (∀ i es, s.inputs = .engine :: es → s.phase.command = some i → step s = exec i { s with inputs := es }) ∧
    (∀ es, s.inputs = .engine :: es → s.phase = .idle → step s = .next { s with inputs := es })

/-! ## Host accesses -/

/-- R64: while a command is in flight every host write is ignored, and what each read returns. A byte read from OUT is
unspecified; the read leaves the engine as it was. -/
def Obligations.BusyEngineIgnoresHostWrites : Prop :=
  ∀ s : State, s.phase ≠ .idle →
    (∀ n v, perform (.host (.wr n v)) s = .next s) ∧
    (∀ sp off b, perform (.host (.wb sp off b)) s = .next s) ∧
    readCsr 1 s = statusWord s ∧ readCsr 2 s = 0#32 ∧ readCsr 5 s = 0#32 ∧
    readCsr 3 s = s.keylen ∧ readCsr 4 s = s.inlen ∧
    (∀ off b, off < s.cap → s.load .inBuf off = some b → readByte .inBuf off s = (b, s)) ∧
    (∀ off, readByte .key off s = (0#8, s)) ∧
    (∀ off, ∃ b d, readByte .outBuf off s = (b, { s with draws := d }))

/-- R34, R35: KEYLEN and INLEN store all 32 bits and read back as written. -/
def Obligations.LengthRegistersReadBack : Prop :=
  ∀ (s : State) (v : Reg32), s.phase = .idle →
    (∃ t, writeCsr 3 v s = .next t ∧ t = { s with keylen := v } ∧ readCsr 3 t = v) ∧
    (∃ t, writeCsr 4 v s = .next t ∧ t = { s with inlen := v } ∧ readCsr 4 t = v)

/-- R37, with the access rights of R30: absent registers read 0; a write to an absent or a read-only register is
ignored; the reserved bits of STATUS and ERR read 0; CMD reads 0 (R31). -/
def Obligations.AbsentRegistersReadZero : Prop :=
  ∀ (s : State) (v : Reg32),
    (∀ n, 6 ≤ n → writeCsr n v s = .next s ∧ readCsr n s = 0#32) ∧
    (∀ n, n = 1 ∨ n = 2 ∨ n = 5 → writeCsr n v s = .next s) ∧
    readCsr 0 s = 0#32 ∧ (readCsr 1 s).toNat < 16 ∧ (readCsr 2 s).toNat < 8

/-- R32: the four flags of STATUS. -/
def Obligations.StatusShowsTheFlags : Prop :=
  ∀ s : State,
    ((statusWord s).getLsbD 0 = true ↔ s.phase ≠ .idle) ∧
    ((statusWord s).getLsbD 1 = true ↔ s.done = true) ∧
    ((statusWord s).getLsbD 2 = true ↔ s.done = true ∧ errWord s ≠ 0#32) ∧
    ((statusWord s).getLsbD 3 = true ↔ s.keyed = true) ∧
    ∀ j, 4 ≤ j → (statusWord s).getLsbD j = false

/-- R52, R51, R53, R59: a byte written to IN by the host is read back and no other byte of any space changes; a byte
written to KEY is stored and reads 0; a write to OUT or out of range is ignored, a read out of range gives 0. -/
def Obligations.HostByteAccesses : Prop :=
  ∀ (s : State) (off : Nat) (b : Byte),
    (s.phase = .idle → off < s.cap →
      (writeByte .inBuf off b s).load .inBuf off = some b ∧
      readByte .inBuf off (writeByte .inBuf off b s) = (b, writeByte .inBuf off b s) ∧
      (∀ q x, q ≠ .inBuf ∨ x ≠ off → (writeByte .inBuf off b s).load q x = s.load q x) ∧
      writeByte .inBuf off b s = { s with inBuf := (writeByte .inBuf off b s).inBuf }) ∧
    (s.phase = .idle → off < 32 →
      (writeByte .key off b s).load .key off = some b ∧
      (∀ q x, q ≠ .key ∨ x ≠ off → (writeByte .key off b s).load q x = s.load q x) ∧
      writeByte .key off b s = { s with key := (writeByte .key off b s).key }) ∧
    readByte .key off s = (0#8, s) ∧
    writeByte .outBuf off b s = s ∧
    (s.cap ≤ off → writeByte .inBuf off b s = s ∧ readByte .inBuf off s = (0#8, s) ∧
      readByte .outBuf off s = (0#8, s)) ∧
    (32 ≤ off → writeByte .key off b s = s)

/-- R60: a read changes nothing of the engine; only the host's list of values, and for an unspecified byte the count of
draws (log 8, log 14). -/
def Obligations.HostReadsChangeNothing : Prop :=
  ∀ s : State,
    (∀ n, perform (.host (.rd n)) s = .next { s with reads := s.reads ++ [.csr (readCsr n s)] }) ∧
    (∀ sp off, ∃ b d, s.draws ≤ d ∧
      perform (.host (.rb sp off)) s = .next { s with reads := s.reads ++ [.byte b], draws := d } ∧
      b = (readByte sp off s).1)

/-- R53: OUT reads as the result while the last command's success lasts and the offset is below OUTLEN; every other
byte of OUT is a draw, in the model the free byte number `draws` (log 8). -/
def Obligations.OutReadsResultOrDraw : Prop :=
  ∀ (s : State) (off : Nat), off < s.cap →
    (∀ b, s.phase = .idle → s.done = true → s.err = none → off < s.outlen.toNat →
      s.load .outBuf off = some b → readByte .outBuf off s = (b, s)) ∧
    (s.phase ≠ .idle ∨ s.done = false ∨ s.err ≠ none ∨ s.outlen.toNat ≤ off →
      readByte .outBuf off s = (Config.freeByte s.draws, { s with draws := s.draws + 1 }))

/-- U7, R56, R57: an access the port does not define is refused. -/
def Obligations.UndefinedAccessRefused : Prop :=
  ∀ (s : State) (es : List Event), s.inputs = .host .undefined :: es → step s = .refused .undefinedAccess

/-- R29, R51: outside `K_EXPAND` no step depends on the bytes of KEY: two states that differ in KEY alone step to
states that differ in KEY alone. With KEY write only, the host cannot learn a key byte. -/
def Obligations.KeyBytesReadOnlyAtExpand : Prop :=
  ∀ (s t : State) (m : Memory), s.phase ≠ .kExpand → step s = .next t →
    ∃ m', step { s with key := m } = .next { t with key := m' }

/-- R81: `LOADIN h` leaves `h` in `IN[0 .. m)` and `m` in INLEN, and changes nothing else of the engine. -/
def Obligations.LoadInFillsInputBuffer : Prop :=
  ∀ (s : State) (h : List Byte) (es : List Event), s.phase = .idle → h.length ≤ s.cap → s.maxPt + 16 < 2 ^ 32 →
    s.inputs = (loadInLines h).map .host ++ es →
    ∃ t, Host.Core.run Sys2Proof.core (h.length + 1) s = .next t ∧
      State.loadRange t .inBuf 0 h.length = .ok h ∧ (State.inlen t).toNat = h.length ∧
      (∀ off, h.length ≤ off → State.load t .inBuf off = s.load .inBuf off) ∧
      t = { s with inputs := es, inBuf := State.inBuf t, inlen := State.inlen t }

/-! ## CONSTRUCT -/

/-- R131: the step at `K_INIT`. On an illegal length the error is taken as R190 says; OUT is then unspecified (`m`).
That NK while unkeyed, and the working registers and WORK outside a call, keep their values is the model's choice (log
17). -/
def Obligations.ConstructChecksKeyLength : Prop :=
  ∀ s : State, s.phase = .kInit →
    (s.keylen.toNat = 16 ∨ s.keylen.toNat = 24 ∨ s.keylen.toNat = 32 →
      exec .construct s = .next
        { s with
          klen := s.keylen.toNat, keyed := false, rk := .replicate 15 Block.zero, phase := .kExpand }) ∧
    (s.keylen.toNat ≠ 16 → s.keylen.toNat ≠ 24 → s.keylen.toNat ≠ 32 → ∃ m : Memory,
      exec .construct s = .next
        { s with
          klen := s.keylen.toNat, keyed := false, rk := .replicate 15 Block.zero,
          err := some .invalidKeySize, outlen := 0#32, rngPending := false, phase := .idle, done := true,
          outBuf := m })

/-- R132: the step at `K_EXPAND`. The round keys of the variant are KeyExpansion of the key bytes. That the working
registers and WORK keep their values outside a call is the model's choice (log 17). -/
def Obligations.ConstructBindsSchedule : Prop :=
  ∀ (s : State) (v : KeyVariant), s.phase = .kExpand → s.klen = 4 * v.words →
    ∃ t, exec .construct s = .next t ∧
      schedule v t.rk = keyExpansion v (s.keyBytes s.klen) ∧
      (s.keyBytes s.klen).length = s.klen ∧
      (∀ j b, j < s.klen → s.load .key j = some b → (s.keyBytes s.klen)[j]? = some b) ∧
      t = { s with nk := v, rk := t.rk, keyed := true, phase := .idle, done := true }

/-- R130, R133: what no step of CONSTRUCT writes. OUT is kept or left without values. That a register of another call,
or any of them once the call is over, keeps its value is the model's choice (log 17). -/
def Obligations.ConstructFrame : Prop :=
  ∀ s t : State, exec .construct s = .next t →
    t = { s with
      phase := t.phase, done := t.done, err := t.err, outlen := t.outlen, outBuf := t.outBuf,
      rngPending := t.rngPending, klen := t.klen, keyed := t.keyed, nk := t.nk, rk := t.rk } ∧
    (t.outBuf = s.outBuf ∨ t.outBuf = []) ∧
    (t.rngPending = s.rngPending ∨ t.rngPending = false) ∧
    (∀ r off, r ≠ .outBuf → t.load r off = s.load r off)

/-- R135 (a), (b), R225: the whole command, from the host's write of its word in an idle engine with nothing else to
come: two engine steps with a legal length, one with an illegal one. -/
def Obligations.ConstructWholeCommand : Prop :=
  ∀ s : State, s.phase = .idle → s.inputs = [.host (.wr 0 0x00000001#32)] →
    (∀ v : KeyVariant, s.keylen.toNat = 4 * v.words →
      ∃ t, Host.Core.run Sys2Proof.core 3 s = .next t ∧
        statusWord t = 0x0000000a#32 ∧ errWord t = 0#32 ∧ State.outlen t = 0#32 ∧ State.nk t = v ∧
        schedule v (State.rk t) = keyExpansion v (s.keyBytes s.keylen.toNat)) ∧
    (s.keylen.toNat ≠ 16 → s.keylen.toNat ≠ 24 → s.keylen.toNat ≠ 32 →
      ∃ t, Host.Core.run Sys2Proof.core 2 s = .next t ∧
        statusWord t = 0x00000006#32 ∧ errWord t = 1#32 ∧ State.outlen t = 0#32 ∧
        State.rk t = .replicate 15 Block.zero)

/-! ## ENCRYPT -/

/-- R141: the step at `E_INIT`, with its two checks in their order. After an error OUT is unspecified (`m`). That the
working registers and WORK keep their values outside a call is the model's choice (log 17). -/
def Obligations.EncryptChecksOperands : Prop :=
  ∀ s : State, s.phase = .eInit →
    (s.keyed = false → ∃ m : Memory, exec .encrypt s = .next
      { s with
        len := s.inlen.toNat, err := some .notKeyed, outlen := 0#32, rngPending := false, phase := .idle,
        done := true, outBuf := m }) ∧
    (s.keyed = true → s.maxPt < s.inlen.toNat → ∃ m : Memory, exec .encrypt s = .next
      { s with
        len := s.inlen.toNat, err := some .inputTooLong, outlen := 0#32, rngPending := false, phase := .idle,
        done := true, outBuf := m }) ∧
    (s.keyed = true → s.inlen.toNat ≤ s.maxPt → exec .encrypt s = .next
      { s with len := s.inlen.toNat, phase := .ePad })

/-- R142: the step at `E_PAD`: the plaintext, then zero bytes up to the next multiple of 16, and the request. -/
def Obligations.EncryptPadsWithZeros : Prop :=
  ∀ s : State, s.phase = .ePad → (∀ j, j < s.len → (s.load .inBuf j).isSome = true) →
    ∃ t, exec .encrypt s = .next t ∧
      (∀ j, j < s.len → t.load .work j = s.load .inBuf j) ∧
      (∀ j, s.len ≤ j → j < ceil16 s.len → t.load .work j = some 0#8) ∧
      (∀ j, ceil16 s.len ≤ j → t.load .work j = s.load .work j) ∧
      ceil16 s.len % 16 = 0 ∧ s.len ≤ ceil16 s.len ∧ ceil16 s.len < s.len + 16 ∧
      t = { s with
        work := t.work, wlen := ceil16 s.len, nblk := ceil16 s.len / 16, rngPending := true,
        rngReqs := t.rngReqs, phase := .eGenIv }

/-- R69, U2: an operand byte that nothing has written stops ENCRYPT at `E_PAD`; the first such byte is named. -/
def Obligations.EncryptFaultsOnUnwrittenInput : Prop :=
  ∀ (s : State) (off : Nat), s.phase = .ePad → off < s.len → s.load .inBuf off = none →
    (∀ j, j < off → (s.load .inBuf j).isSome = true) →
    exec .encrypt s = .fault (.unwrittenInput off)

/-- R143: the step at `E_GENIV`, for the answer to the outstanding request. That answers are told apart by request
number (`answerTo`) is the model's choice (log 4), and so is that OUT holds no value after the error (log 8). That the
working registers and WORK keep their values outside a call is the model's choice (log 17). -/
def Obligations.EncryptTakesIvOrFails : Prop :=
  ∀ s : State, s.phase = .eGenIv → s.rngPending = true → s.rngSilent = false →
    (∀ iv, s.answerTo (s.rngReqs - 1) = .ok iv →
      ∃ t, exec .encrypt s = .next t ∧
        t.loadBlock .outBuf 0 = .ok iv ∧
        (∀ x, 16 ≤ x → t.load .outBuf x = s.load .outBuf x) ∧
        t = { s with
          outBuf := t.outBuf, rngPending := false, ivreg := iv, chain := iv, idx := 1, phase := .eChain }) ∧
    (s.answerTo (s.rngReqs - 1) = .fail → exec .encrypt s = .next
      { s with
        err := some .randomness, outlen := 0#32, rngPending := false, phase := .idle, done := true,
        outBuf := [] })

/-- U6, R196 (d): while the source is silent ENCRYPT stays at `E_GENIV`, unchanged. -/
def Obligations.SilentSourceKeepsEncryptWaiting : Prop :=
  ∀ s : State, s.phase = .eGenIv → s.rngSilent = true → exec .encrypt s = .next s

/-- R196 (b), R211: the answer that `E_GENIV` consumes belongs to the request `E_PAD` sent, and after a reset the next
request is a new one. -/
def Obligations.AnswerBelongsToItsRequest : Prop :=
  (∀ s t : State, s.phase = .ePad → s.rngSilent = false → exec .encrypt s = .next t →
    t.answer = some (s.answerTo s.rngReqs)) ∧
  (∀ s : State, (resetEngine s).answer = none ∧ (resetEngine s).rngReqs = s.rngReqs)

/-- R144: the step at `E_CHAIN` for one block: `C_i = E(RK, P_i XOR C_{i-1})`, stored at `OUT[16i .. 16i+16)`. -/
def Obligations.EncryptChainsOneBlock : Prop :=
  ∀ (s : State) (p : Block), s.phase = .eChain → 1 ≤ s.idx → s.idx ≤ s.nblk →
    s.loadBlock .work (16 * (s.idx - 1)) = .ok p →
    ∃ t, exec .encrypt s = .next t ∧
      t.loadBlock .outBuf (16 * s.idx) = .ok (encryptBlock s.nk s.rk (p.xor s.chain)) ∧
      (∀ x, x < 16 * s.idx ∨ 16 * s.idx + 16 ≤ x → t.load .outBuf x = s.load .outBuf x) ∧
      t = { s with
        outBuf := t.outBuf, chain := encryptBlock s.nk s.rk (p.xor s.chain), idx := s.idx + 1 }

/-- R145: the end of ENCRYPT. That the working registers and WORK keep their values outside a call is the model's
choice (log 17). -/
def Obligations.EncryptEndsWithBlobLength : Prop :=
  ∀ s : State, s.phase = .eChain → s.idx = s.nblk + 1 → 16 + s.wlen < 2 ^ 32 →
    ∃ t, exec .encrypt s = .next t ∧ t.outlen.toNat = 16 + s.wlen ∧
      t = { s with outlen := t.outlen, phase := .idle, done := true }

/-- R140: what no step of ENCRYPT writes: among others KEYED, NK, RK, KEYLEN, INLEN, KEY and IN. That a register of
another call, or any of them once the call is over, keeps its value is the model's choice (log 17). -/
def Obligations.EncryptFrame : Prop :=
  ∀ s t : State, exec .encrypt s = .next t →
    t = { s with
      phase := t.phase, done := t.done, err := t.err, outlen := t.outlen, outBuf := t.outBuf,
      rngPending := t.rngPending, rngReqs := t.rngReqs, len := t.len, ivreg := t.ivreg, chain := t.chain,
      nblk := t.nblk, idx := t.idx, work := t.work, wlen := t.wlen } ∧
    (∀ r off, r = .key ∨ r = .inBuf → t.load r off = s.load r off)

/-- R146, R147, R225: the whole command. From the host's write of its word in an idle, keyed engine with nothing else
to come, after `NBLK + 4` engine steps the blob stands in OUT: `Enc(RK, P, iv)`. -/
def Obligations.EncryptComputesEnc : Prop :=
  ∀ (s : State) (p : List Byte) (iv : Block),
    s.phase = .idle → s.inputs = [.host (.wr 0 0x00000002#32)] → s.keyed = true → maxPtOk s.maxPt = true →
    s.inlen.toNat ≤ s.maxPt → s.loadRange .inBuf 0 s.inlen.toNat = .ok p →
    s.rngSilent = false → s.answerTo s.rngReqs = .ok iv →
    ∃ t, Host.Core.run Sys2Proof.core (1 + (ceil16 p.length / 16 + 4)) s = .next t ∧
      statusWord t = 0x0000000a#32 ∧ errWord t = 0#32 ∧
      (State.outlen t).toNat = 16 + ceil16 p.length ∧
      (encBlob s.nk s.rk p iv).length = 16 + ceil16 p.length ∧
      State.loadRange t .outBuf 0 (16 + ceil16 p.length) = .ok (encBlob s.nk s.rk p iv) ∧
      State.nk t = s.nk ∧ State.rk t = s.rk ∧ State.inBuf t = s.inBuf ∧ State.key t = s.key ∧
      State.keylen t = s.keylen ∧ State.inlen t = s.inlen

/-- R148, R225: the three errors of ENCRYPT, each with its number of engine steps, its code, OUTLEN 0 and the cipher
kept. -/
def Obligations.EncryptErrorsWholeCommand : Prop :=
  ∀ s : State, s.phase = .idle → s.inputs = [.host (.wr 0 0x00000002#32)] →
    (s.keyed = false → ∃ t, Host.Core.run Sys2Proof.core 2 s = .next t ∧
      statusWord t = 0x00000006#32 ∧ errWord t = 5#32 ∧ State.outlen t = 0#32 ∧ State.rngReqs t = s.rngReqs) ∧
    (s.keyed = true → s.maxPt < s.inlen.toNat → ∃ t, Host.Core.run Sys2Proof.core 2 s = .next t ∧
      statusWord t = 0x0000000e#32 ∧ errWord t = 6#32 ∧ State.outlen t = 0#32 ∧ State.rngReqs t = s.rngReqs ∧
      State.nk t = s.nk ∧ State.rk t = s.rk) ∧
    (s.keyed = true → s.inlen.toNat ≤ s.maxPt → (∀ j, j < s.inlen.toNat → (s.load .inBuf j).isSome = true) →
      s.rngSilent = false → s.answerTo s.rngReqs = .fail →
      ∃ t, Host.Core.run Sys2Proof.core 4 s = .next t ∧
        statusWord t = 0x0000000e#32 ∧ errWord t = 2#32 ∧ State.outlen t = 0#32 ∧ State.outBuf t = [] ∧
        State.nk t = s.nk ∧ State.rk t = s.rk)

/-- R150, D15: under the named premise that the source answers distinct requests with distinct IVs, the blobs of two
requests differ, whatever keys and plaintexts. -/
def Obligations.FreshIvsGiveDistinctBlobs : Prop :=
  ∀ (s : State) (m n : Nat) (iv iv' : Block) (v v' : KeyVariant) (rk rk' : Vector Block 15) (p p' : List Byte),
    s.IvFresh → m ≠ n → s.rngScript[m]? = some (RngResp.ok iv) → s.rngScript[n]? = some (RngResp.ok iv') →
    encBlob v rk p iv ≠ encBlob v' rk' p' iv'

/-! ## DECRYPT -/

/-- R161: the step at `D_INIT`, with its three checks in their order. After an error OUT is unspecified (`m`). That the
working registers and WORK keep their values outside a call is the model's choice (log 17). -/
def Obligations.DecryptChecksOperands : Prop :=
  ∀ s : State, s.phase = .dInit →
    (s.keyed = false → ∃ m : Memory, exec .decrypt s = .next
      { s with
        len := s.inlen.toNat, err := some .notKeyed, outlen := 0#32, rngPending := false, phase := .idle,
        done := true, outBuf := m }) ∧
    (s.keyed = true → s.maxPt + 16 < s.inlen.toNat → ∃ m : Memory, exec .decrypt s = .next
      { s with
        len := s.inlen.toNat, err := some .inputTooLong, outlen := 0#32, rngPending := false, phase := .idle,
        done := true, outBuf := m }) ∧
    (s.keyed = true → s.inlen.toNat ≤ s.maxPt + 16 → s.inlen.toNat < 16 → ∃ m : Memory, exec .decrypt s = .next
      { s with
        len := s.inlen.toNat, err := some .ciphertextTooShort, outlen := 0#32, rngPending := false,
        phase := .idle, done := true, outBuf := m }) ∧
    (s.keyed = true → s.inlen.toNat ≤ s.maxPt + 16 → 16 ≤ s.inlen.toNat → exec .decrypt s = .next
      { s with len := s.inlen.toNat, phase := .dSplitIv })

/-- R162: the step at `D_SPLITIV`. -/
def Obligations.DecryptSplitsIv : Prop :=
  ∀ (s : State) (iv : Block), s.phase = .dSplitIv → s.loadBlock .inBuf 0 = .ok iv →
    exec .decrypt s = .next { s with ivreg := iv, chain := iv, phase := .dValidate }

/-- R163: the step at `D_VALIDATE`. After an error OUT is unspecified (`m`). That the working registers and WORK keep
their values outside a call is the model's choice (log 17). -/
def Obligations.DecryptValidatesAlignment : Prop :=
  ∀ s : State, s.phase = .dValidate → 16 ≤ s.len →
    ((s.len - 16) % 16 ≠ 0 → ∃ m : Memory, exec .decrypt s = .next
      { s with
        err := some .misalignedCiphertext, outlen := 0#32, rngPending := false, phase := .idle, done := true,
        outBuf := m }) ∧
    ((s.len - 16) % 16 = 0 → exec .decrypt s = .next
      { s with wlen := s.len - 16, nblk := (s.len - 16) / 16, idx := 1, phase := .dChain })

/-- R164: the step at `D_CHAIN`: one block `P_i = D(RK, C_i) XOR C_{i-1}`, or the exit when all blocks are done. -/
def Obligations.DecryptUnchainsOneBlock : Prop :=
  ∀ s : State, s.phase = .dChain → 1 ≤ s.idx →
    (∀ c, s.idx ≤ s.nblk → s.loadBlock .inBuf (16 * s.idx) = .ok c →
      ∃ t, exec .decrypt s = .next t ∧
        t.loadBlock .work (16 * (s.idx - 1)) = .ok ((decryptBlock s.nk s.rk c).xor s.chain) ∧
        (∀ x, x < 16 * (s.idx - 1) ∨ 16 * s.idx ≤ x → t.load .work x = s.load .work x) ∧
        t = { s with work := t.work, chain := c, idx := s.idx + 1 }) ∧
    (s.nblk < s.idx → exec .decrypt s = .next { s with phase := .dStrip })

/-- R165: the step at `D_STRIP`: the result ends before the first zero byte of WORK, or is all of it. That the working
registers and WORK keep their values outside a call is the model's choice (log 17). -/
def Obligations.DecryptStripsAtFirstZero : Prop :=
  ∀ s : State, s.phase = .dStrip → s.wlen < 2 ^ 32 → (∀ j, j < s.wlen → (s.load .work j).isSome = true) →
    ∃ (t : State) (r : Nat), exec .decrypt s = .next t ∧
      r ≤ s.wlen ∧ (∀ j, j < r → s.load .work j ≠ some 0#8) ∧ (r < s.wlen → s.load .work r = some 0#8) ∧
      t.outlen.toNat = r ∧ (∀ j, j < r → t.load .outBuf j = s.load .work j) ∧
      (∀ j, r ≤ j → t.load .outBuf j = s.load .outBuf j) ∧
      t = { s with outBuf := t.outBuf, outlen := t.outlen, phase := .idle, done := true }

/-- R69, U2: a blob byte that nothing has written stops DECRYPT where it is read. -/
def Obligations.DecryptFaultsOnUnwrittenInput : Prop :=
  ∀ (s : State) (off : Nat), s.load .inBuf off = none →
    (s.phase = .dSplitIv → off < 16 → (∀ j, j < off → (s.load .inBuf j).isSome = true) →
      exec .decrypt s = .fault (.unwrittenInput off)) ∧
    (s.phase = .dChain → 1 ≤ s.idx → s.idx ≤ s.nblk → 16 * s.idx ≤ off → off < 16 * s.idx + 16 →
      (∀ j, 16 * s.idx ≤ j → j < off → (s.load .inBuf j).isSome = true) →
      exec .decrypt s = .fault (.unwrittenInput off))

/-- R160: what no step of DECRYPT writes: among others KEYED, NK, RK, KEYLEN, INLEN, KEY and IN; and it makes no
request to the random source. That a register of another call, or any of them once the call is over, keeps its value is
the model's choice (log 17). -/
def Obligations.DecryptFrame : Prop :=
  ∀ s t : State, exec .decrypt s = .next t →
    t = { s with
      phase := t.phase, done := t.done, err := t.err, outlen := t.outlen, outBuf := t.outBuf,
      rngPending := t.rngPending, len := t.len, ivreg := t.ivreg, chain := t.chain, nblk := t.nblk,
      idx := t.idx, work := t.work, wlen := t.wlen } ∧
    (t.rngPending = s.rngPending ∨ t.rngPending = false) ∧
    (∀ r off, r = .key ∨ r = .inBuf → t.load r off = s.load r off)

/-- R167, R225: the whole command. From the host's write of its word in an idle, keyed engine with nothing else to come,
after `NBLK + 5` engine steps the result of `Dec(RK, B)` stands in OUT. -/
def Obligations.DecryptComputesDec : Prop :=
  ∀ (s : State) (b r : List Byte),
    s.phase = .idle → s.inputs = [.host (.wr 0 0x00000003#32)] → s.keyed = true → maxPtOk s.maxPt = true →
    s.inlen.toNat ≤ s.maxPt + 16 → s.loadRange .inBuf 0 s.inlen.toNat = .ok b →
    decBlob s.nk s.rk b = .ok r →
    ∃ t, Host.Core.run Sys2Proof.core (1 + ((b.length - 16) / 16 + 5)) s = .next t ∧
      statusWord t = 0x0000000a#32 ∧ errWord t = 0#32 ∧
      (State.outlen t).toNat = r.length ∧ State.loadRange t .outBuf 0 r.length = .ok r ∧
      State.nk t = s.nk ∧ State.rk t = s.rk ∧ State.inBuf t = s.inBuf ∧ State.key t = s.key ∧
      State.keylen t = s.keylen ∧ State.inlen t = s.inlen

/-- R169, R225: the four errors of DECRYPT, each with its number of engine steps, its code, OUTLEN 0 and the cipher
kept. The alignment error is met only after the IV has been read. -/
def Obligations.DecryptErrorsWholeCommand : Prop :=
  ∀ s : State, s.phase = .idle → s.inputs = [.host (.wr 0 0x00000003#32)] →
    (s.keyed = false → ∃ t, Host.Core.run Sys2Proof.core 2 s = .next t ∧
      statusWord t = 0x00000006#32 ∧ errWord t = 5#32 ∧ State.outlen t = 0#32) ∧
    (s.keyed = true → s.maxPt + 16 < s.inlen.toNat → ∃ t, Host.Core.run Sys2Proof.core 2 s = .next t ∧
      statusWord t = 0x0000000e#32 ∧ errWord t = 6#32 ∧ State.outlen t = 0#32 ∧
      State.nk t = s.nk ∧ State.rk t = s.rk) ∧
    (s.keyed = true → s.inlen.toNat < 16 → ∃ t, Host.Core.run Sys2Proof.core 2 s = .next t ∧
      statusWord t = 0x0000000e#32 ∧ errWord t = 3#32 ∧ State.outlen t = 0#32 ∧
      State.nk t = s.nk ∧ State.rk t = s.rk) ∧
    (s.keyed = true → 16 ≤ s.inlen.toNat → s.inlen.toNat ≤ s.maxPt + 16 → (s.inlen.toNat - 16) % 16 ≠ 0 →
      (∀ j, j < 16 → (s.load .inBuf j).isSome = true) →
      ∃ t, Host.Core.run Sys2Proof.core 4 s = .next t ∧
        statusWord t = 0x0000000e#32 ∧ errWord t = 4#32 ∧ State.outlen t = 0#32 ∧ State.outBuf t = [] ∧
        State.nk t = s.nk ∧ State.rk t = s.rk)

/-- R168: the exact round trip. -/
def Obligations.RoundTripIffNoZeroByte : Prop :=
  ∀ (v : KeyVariant) (rk : Vector Block 15) (p : List Byte) (iv : Block),
    decBlob v rk (encBlob v rk p iv) = .ok (strip (padded p)) ∧
    strip (padded p) = strip p ∧
    (decBlob v rk (encBlob v rk p iv) = .ok p ↔ 0#8 ∉ p)

/-- R170: an altered block `C_i` changes `P_i`, and `P_{i+1}` by exactly the XOR difference, and nothing else; an altered
IV changes `P_1` by the XOR difference and nothing else. (Block `i` here counts from 0.) -/
def Obligations.AlteredBlockChangesTwoBlocks : Prop :=
  ∀ (v : KeyVariant) (rk : Vector Block 15) (iv iv' c' : Block) (cs : List Block) (i : Nat), i < cs.length →
    (∀ j, j ≠ i → j ≠ i + 1 →
      (chainDecrypt v rk iv (cs.set i c'))[j]? = (chainDecrypt v rk iv cs)[j]?) ∧
    (∀ prev, (iv :: cs)[i]? = some prev →
      (chainDecrypt v rk iv (cs.set i c'))[i]? = some ((decryptBlock v rk c').xor prev)) ∧
    (∀ c q, cs[i]? = some c → (chainDecrypt v rk iv cs)[i + 1]? = some q →
      (chainDecrypt v rk iv (cs.set i c'))[i + 1]? = some (q.xor (c.xor c'))) ∧
    (∀ q, (chainDecrypt v rk iv cs)[0]? = some q →
      (chainDecrypt v rk iv' cs)[0]? = some (q.xor (iv.xor iv'))) ∧
    (∀ j, 1 ≤ j → (chainDecrypt v rk iv' cs)[j]? = (chainDecrypt v rk iv cs)[j]?)

/-! ## The block cipher -/

/-- R113: the inverse law, for every round-key file. -/
def Obligations.InverseCipherUndoesCipher : Prop :=
  ∀ (v : KeyVariant) (rk : Vector Block 15) (b : Block),
    decryptBlock v rk (encryptBlock v rk b) = b ∧ encryptBlock v rk (decryptBlock v rk b) = b

/-- R109: the recurrence of the key schedule, and the round keys as four words each. -/
def Obligations.KeyScheduleRecurrence : Prop :=
  ∀ (v : KeyVariant) (k : List Byte), k.length = 4 * v.words →
    (scheduleWords v k).length = 4 * (v.rounds + 1) ∧
    (∀ i, i < v.words → (scheduleWords v k)[i]? = some
      ⟨k.getD (4 * i) 0#8, k.getD (4 * i + 1) 0#8, k.getD (4 * i + 2) 0#8, k.getD (4 * i + 3) 0#8⟩) ∧
    (∀ i w t, v.words ≤ i → i < 4 * (v.rounds + 1) →
      (scheduleWords v k)[i - v.words]? = some w → (scheduleWords v k)[i - 1]? = some t →
      (scheduleWords v k)[i]? = some (w.xor
        (if i % v.words = 0 then (subWord (rotWord t)).xor ⟨rcon (i / v.words), 0#8, 0#8, 0#8⟩
         else if v.words = 8 ∧ i % v.words = 4 then subWord t
         else t))) ∧
    (keyExpansion v k).length = v.rounds + 1 ∧
    (∀ r a b c d, (scheduleWords v k)[4 * r]? = some a → (scheduleWords v k)[4 * r + 1]? = some b →
      (scheduleWords v k)[4 * r + 2]? = some c → (scheduleWords v k)[4 * r + 3]? = some d →
      (keyExpansion v k)[r]? = some ⟨a, b, c, d⟩)

/-- R102, R103: the table SBOX is the affine map of the field inverse, and INVSBOX is its inverse. -/
def Obligations.SBoxIsAffineOfInverse : Prop :=
  (∀ a : Byte, ∃ b : Byte, (a = 0#8 → b = 0#8) ∧ (a ≠ 0#8 → gmul a b = 1#8) ∧ sbox a = sboxAffine b) ∧
  (∀ a : Byte, invSbox (sbox a) = a ∧ sbox (invSbox a) = a)

/-- R111, R112: the examples of the rules (vectors T-E of section 2 of 95, one for each key size, and T-D). -/
def Obligations.CipherMatchesPublishedVectors : Prop :=
  let key (n : Nat) : List Byte := (List.range n).map (BitVec.ofNat 8)
  let rk (v : KeyVariant) : Vector Block 15 :=
    loadSchedule (.replicate 15 Block.zero) (keyExpansion v (key (4 * v.words)))
  let b : Block := ⟨⟨0x00#8, 0x11#8, 0x22#8, 0x33#8⟩, ⟨0x44#8, 0x55#8, 0x66#8, 0x77#8⟩,
    ⟨0x88#8, 0x99#8, 0xaa#8, 0xbb#8⟩, ⟨0xcc#8, 0xdd#8, 0xee#8, 0xff#8⟩⟩
  encryptBlock .aes128 (rk .aes128) b = ⟨⟨0x69#8, 0xc4#8, 0xe0#8, 0xd8#8⟩, ⟨0x6a#8, 0x7b#8, 0x04#8, 0x30#8⟩,
    ⟨0xd8#8, 0xcd#8, 0xb7#8, 0x80#8⟩, ⟨0x70#8, 0xb4#8, 0xc5#8, 0x5a#8⟩⟩ ∧
  encryptBlock .aes192 (rk .aes192) b = ⟨⟨0xdd#8, 0xa9#8, 0x7c#8, 0xa4#8⟩, ⟨0x86#8, 0x4c#8, 0xdf#8, 0xe0#8⟩,
    ⟨0x6e#8, 0xaf#8, 0x70#8, 0xa0#8⟩, ⟨0xec#8, 0x0d#8, 0x71#8, 0x91#8⟩⟩ ∧
  encryptBlock .aes256 (rk .aes256) b = ⟨⟨0x8e#8, 0xa2#8, 0xb7#8, 0xca#8⟩, ⟨0x51#8, 0x67#8, 0x45#8, 0xbf#8⟩,
    ⟨0xea#8, 0xfc#8, 0x49#8, 0x90#8⟩, ⟨0x4b#8, 0x49#8, 0x60#8, 0x89#8⟩⟩ ∧
  decryptBlock .aes128 (rk .aes128) ⟨⟨0x00#8, 0x01#8, 0x02#8, 0x03#8⟩, ⟨0x04#8, 0x05#8, 0x06#8, 0x07#8⟩,
    ⟨0x08#8, 0x09#8, 0x0a#8, 0x0b#8⟩, ⟨0x0c#8, 0x0d#8, 0x0e#8, 0x0f#8⟩⟩ =
    ⟨⟨0x77#8, 0x57#8, 0xe3#8, 0x66#8⟩, ⟨0xe9#8, 0x63#8, 0x6e#8, 0x66#8⟩,
     ⟨0x9a#8, 0x16#8, 0x2d#8, 0x35#8⟩, ⟨0xf5#8, 0x2d#8, 0xbe#8, 0x19#8⟩⟩

/-! ## Errors, reset, whole-machine rules -/

/-- R190: taking an error, and what the host then reads. OUT is unspecified afterwards (`m`). That the working
registers and WORK keep their values outside a call is the model's choice (log 17). -/
def Obligations.RaiseErrorEndsTheCommand : Prop :=
  ∀ (k : ErrorKind) (s : State),
    (∃ m : Memory, raise k s = { s with
      err := some k, outlen := 0#32, rngPending := false, phase := .idle, done := true, outBuf := m }) ∧
    errWord (raise k s) = 0#28 ++ k.code ∧ k.code ≠ 0#4 ∧
    (statusWord (raise k s)).getLsbD 0 = false ∧ (statusWord (raise k s)).getLsbD 1 = true ∧
    (statusWord (raise k s)).getLsbD 2 = true ∧ (statusWord (raise k s)).getLsbD 3 = s.keyed

/-- R181: the codes, and that each kind has its own. -/
def Obligations.ErrorCodesDistinguishKinds : Prop :=
  ErrorKind.invalidKeySize.code = 1#4 ∧ ErrorKind.randomness.code = 2#4 ∧
  ErrorKind.ciphertextTooShort.code = 3#4 ∧ ErrorKind.misalignedCiphertext.code = 4#4 ∧
  ErrorKind.notKeyed.code = 5#4 ∧ ErrorKind.inputTooLong.code = 6#4 ∧ ErrorKind.illegalCommand.code = 7#4 ∧
  ∀ j k : ErrorKind, j.code = k.code → j = k

/-- R195, R53: in an idle engine ERR, DONE, OUTLEN and OUT keep their values until a write to CMD or a reset; reading
does not clear them. -/
def Obligations.ResultStaysUntilNextCommand : Prop :=
  ∀ s t : State, s.phase = .idle → step s = .next t →
    s.inputs.head? ≠ some .reset → (∀ v, s.inputs.head? ≠ some (.host (.wr 0 v))) →
    t.phase = .idle ∧ t.done = s.done ∧ t.err = s.err ∧ t.outlen = s.outlen ∧ t.outBuf = s.outBuf

/-- R210, R43: the reset event, in any state. The model's choices: IN and OUT then hold no byte (log 7, log 8); MAX_PT, the
later events and the host's list of reads are kept (log 1, log 2, log 14). -/
def Obligations.ResetEventClearsEngine : Prop :=
  ∀ (s : State) (es : List Event), s.inputs = .reset :: es →
    ∃ t, step s = .next t ∧
      t.phase = .idle ∧ t.keyed = false ∧ t.rk = .replicate 15 Block.zero ∧ t.rngPending = false ∧
      statusWord t = 0#32 ∧ errWord t = 0#32 ∧ t.keylen = 0#32 ∧ t.inlen = 0#32 ∧ t.outlen = 0#32 ∧
      (∀ off, off < 32 → t.load .key off = some 0#8) ∧
      (∀ off, t.load .inBuf off = none ∧ t.load .outBuf off = none) ∧
      t.maxPt = s.maxPt ∧ t.inputs = es ∧ t.reads = s.reads

/-- R21, R22, R23: KEYED, NK and RK change only in the steps of CONSTRUCT and at a reset. That NK is kept while unkeyed
is the model's choice (log 17). -/
def Obligations.OnlyConstructChangesCipher : Prop :=
  ∀ s t : State, step s = .next t → s.phase ≠ .kInit → s.phase ≠ .kExpand → s.inputs.head? ≠ some .reset →
    t.keyed = s.keyed ∧ t.nk = s.nk ∧ t.rk = s.rk

/-- R34, R35, R51, R52: KEY, IN, KEYLEN and INLEN change only by the host's writes, while idle, and at a reset. -/
def Obligations.OnlyHostWritesOperands : Prop :=
  ∀ s t : State, step s = .next t → s.inputs.head? ≠ some .reset →
    (s.phase ≠ .idle ∨ (∀ n v, s.inputs.head? ≠ some (.host (.wr n v))) ∧
      ∀ sp off b, s.inputs.head? ≠ some (.host (.wb sp off b))) →
    t.key = s.key ∧ t.inBuf = s.inBuf ∧ t.keylen = s.keylen ∧ t.inlen = s.inlen

/-- R7: no step changes the parameter MAX_PT (log 1). -/
def Obligations.NoStepChangesMaxPt : Prop :=
  ∀ s t : State, step s = .next t → t.maxPt = s.maxPt

/-- The spaces keep their canonical form (the model's own form of memory; it makes equal memories equal data). -/
def Obligations.StepKeepsMemoryCanonical : Prop :=
  ∀ s t : State, s.canonical → step s = .next t → t.canonical

/-- The invariant holds after reset (R43). -/
def Obligations.ResetStateMeetsInv : Prop := State.reset.Inv

/-- R42 and the ranges of R25 to R28: every step from a state that meets the invariant leads to one that meets it. -/
def Obligations.StepKeepsInv : Prop :=
  ∀ s t : State, s.Inv → step s = .next t → t.Inv

/-- R69, R180: from a state that meets the invariant a step stops only on an operand byte of IN that nothing has
written, and is refused only for an access the port does not define. -/
def Obligations.OnlyUnwrittenInputStopsARun : Prop :=
  ∀ s : State, s.Inv →
    (∀ f, step s = .fault f → f.isUnwrittenInput = true) ∧
    (∀ r, step s = .refused r → r = .undefinedAccess ∧ s.inputs.head? = some (.host .undefined))

/-- R225: under the invariant, with the source answering and nothing from outside to come, a command whose operand is
written ends: the engine is idle after at most `MAX_PT / 16 + 6` steps. -/
def Obligations.EveryCommandEnds : Prop :=
  ∀ s : State, s.Inv → s.inputs = [] → s.sourceAnswers → s.written .inBuf s.inlen.toNat →
    ∃ t, Host.Core.run Sys2Proof.core (s.maxPt / 16 + 6) s = .next t ∧ State.phase t = .idle
end

