-- ==== Sys2Proof/Laws/Memory.lean ====
section
/-! SUPPORT. The laws of a byte space held as a list of cells: a read after a write, and the canonical form. -/

namespace Sys2Proof.Machine

/-! ## Reading what was written -/

theorem Memory.read_erase_same (d : Option Byte) (m : Memory) (a : Nat) :
    Memory.read d (m.erase a) a = d := by
  induction m with
  | nil => rfl
  | cons c m ih =>
    by_cases h : c.1 = a
    · simp [Memory.erase, h, ih]
    · simp [Memory.erase, h, Memory.read, ih]

theorem Memory.read_erase_other (d : Option Byte) (m : Memory) {a x : Nat} (hx : x ≠ a) :
    Memory.read d (m.erase a) x = Memory.read d m x := by
  induction m with
  | nil => rfl
  | cons c m ih =>
    by_cases h : c.1 = a
    · have : c.1 ≠ x := fun h' => hx (h'.symm.trans h)
      simp [Memory.erase, h, Memory.read, ih, h ▸ this]
    · simp [Memory.erase, h, Memory.read, ih]

theorem Memory.read_place_same (d : Option Byte) (m : Memory) (a : Nat) (b : Byte)
    (h : ∀ c ∈ m, c.1 ≠ a) : Memory.read d (m.place a b) a = some b := by
  induction m with
  | nil => simp [Memory.place, Memory.read]
  | cons c m ih =>
    have hc := h c (by simp)
    by_cases hlt : a < c.1
    · simp [Memory.place, hlt, Memory.read]
    · simp [Memory.place, hlt, Memory.read, hc, ih fun c' hc' => h c' (by simp [hc'])]

theorem Memory.read_place_other (d : Option Byte) (m : Memory) {a x : Nat} (b : Byte) (hx : x ≠ a) :
    Memory.read d (m.place a b) x = Memory.read d m x := by
  induction m with
  | nil => simp [Memory.place, Memory.read, hx.symm]
  | cons c m ih =>
    by_cases hlt : a < c.1
    · simp [Memory.place, hlt, Memory.read, hx.symm]
    · simp [Memory.place, hlt, Memory.read, ih]

theorem Memory.mem_erase {m : Memory} {a : Nat} {c : Host.Cell} :
    c ∈ m.erase a ↔ c ∈ m ∧ c.1 ≠ a := by
  induction m with
  | nil => simp [Memory.erase]
  | cons c' m ih =>
    by_cases h : c'.1 = a
    · simp only [Memory.erase, h, if_true, ih, List.mem_cons]
      constructor
      · rintro ⟨hm, hn⟩; exact ⟨.inr hm, hn⟩
      · rintro ⟨rfl | hm, hn⟩
        · exact absurd h hn
        · exact ⟨hm, hn⟩
    · simp only [Memory.erase, h, if_false, List.mem_cons, ih]
      constructor
      · rintro (rfl | ⟨hm, hn⟩)
        · exact ⟨.inl rfl, h⟩
        · exact ⟨.inr hm, hn⟩
      · rintro ⟨rfl | hm, hn⟩
        · exact .inl rfl
        · exact .inr ⟨hm, hn⟩

theorem Memory.mem_place {m : Memory} {a : Nat} {b : Byte} {c : Host.Cell} :
    c ∈ m.place a b ↔ c = (a, b) ∨ c ∈ m := by
  induction m with
  | nil => simp [Memory.place]
  | cons c' m ih =>
    by_cases hlt : a < c'.1
    · simp [Memory.place, hlt]
    · simp only [Memory.place, hlt, if_false, List.mem_cons, ih]
      tauto

/-- A read after a write at the same offset gives the byte written. -/
theorem Memory.read_write_same (d : Option Byte) (m : Memory) (a : Nat) (b : Byte) :
    Memory.read d (m.write d a b) a = some b := by
  unfold Memory.write
  split
  · next h => rw [Memory.read_erase_same, h]
  · exact Memory.read_place_same d _ a b fun c hc => (Memory.mem_erase.mp hc).2

/-- A write leaves every other offset as it was. -/
theorem Memory.read_write_other (d : Option Byte) (m : Memory) {a x : Nat} (b : Byte) (hx : x ≠ a) :
    Memory.read d (m.write d a b) x = Memory.read d m x := by
  unfold Memory.write
  split
  · exact Memory.read_erase_other d m hx
  · rw [Memory.read_place_other d _ b hx, Memory.read_erase_other d m hx]

/-- Writing a range leaves every offset outside it. -/
theorem Memory.read_writeRange_other (d : Option Byte) (m : Memory) {a x : Nat} (bs : List Byte)
    (h : x < a ∨ a + bs.length ≤ x) : Memory.read d (Memory.writeRange d m a bs) x = Memory.read d m x := by
  induction bs generalizing m a with
  | nil => rfl
  | cons b bs ih =>
    simp only [List.length_cons] at h
    rw [Memory.writeRange, ih _ (by omega), Memory.read_write_other _ _ _ (by omega)]

/-- A range written is read back. -/
theorem Memory.read_writeRange_same (d : Option Byte) (m : Memory) {a x : Nat} (bs : List Byte)
    (h : x < bs.length) : Memory.read d (Memory.writeRange d m a bs) (a + x) = bs[x]? := by
  induction bs generalizing m a x with
  | nil => simp at h
  | cons b bs ih =>
    cases x with
    | zero =>
      rw [Memory.writeRange, Memory.read_writeRange_other _ _ _ (.inl (by omega))]
      simpa using Memory.read_write_same d m a b
    | succ x =>
      rw [Memory.writeRange, show a + (x + 1) = a + 1 + x by omega, ih _ (by simpa using h)]
      simp

/-- Every offset of a written range has a value. -/
theorem Memory.read_writeRange_isSome (d : Option Byte) (m : Memory) {a x : Nat} (bs : List Byte) (h1 : a ≤ x)
    (h2 : x < a + bs.length) : (Memory.read d (Memory.writeRange d m a bs) x).isSome = true := by
  have := Memory.read_writeRange_same d m (a := a) (x := x - a) bs (by omega)
  rw [show a + (x - a) = x by omega] at this
  rw [this]
  simp
  omega

/-- Writing a block leaves every offset outside it. -/
theorem Memory.read_writeBlock_other (d : Option Byte) (m : Memory) {a x : Nat} (b : Block)
    (h : x < a ∨ a + 16 ≤ x) : Memory.read d (m.writeBlock d a b) x = Memory.read d m x :=
  Memory.read_writeRange_other d m (blockBytes b) h

/-- A block written is read back. -/
theorem Memory.read_writeBlock_same (d : Option Byte) (m : Memory) {a x : Nat} (b : Block) (h : x < 16) :
    Memory.read d (m.writeBlock d a b) (a + x) = (blockBytes b)[x]? :=
  Memory.read_writeRange_same d m (blockBytes b) h

/-- Every offset of a written block has a value. -/
theorem Memory.read_writeBlock_isSome (d : Option Byte) (m : Memory) {a x : Nat} (b : Block) (h1 : a ≤ x)
    (h2 : x < a + 16) : (Memory.read d (m.writeBlock d a b) x).isSome = true :=
  Memory.read_writeRange_isSome d m (blockBytes b) h1 h2

/-! ## The canonical form -/

theorem Memory.sortedFrom_weaken {m : Memory} {lo : Nat} (h : Memory.sortedFrom (some lo) m = true) :
    Memory.sortedFrom none m = true := by
  cases m with
  | nil => rfl
  | cons c m => simp [Memory.sortedFrom] at h ⊢; exact h.2

theorem Memory.sortedFrom_lower {m : Memory} {lo lo' : Nat} (hle : lo' ≤ lo)
    (h : Memory.sortedFrom (some lo) m = true) : Memory.sortedFrom (some lo') m = true := by
  cases m with
  | nil => rfl
  | cons c m => simp [Memory.sortedFrom] at h ⊢; exact ⟨by omega, h.2⟩

theorem Memory.sortedFrom_erase {m : Memory} {a : Nat} {lo : Option Nat}
    (h : Memory.sortedFrom lo m = true) : Memory.sortedFrom lo (m.erase a) = true := by
  induction m generalizing lo with
  | nil => simp [Memory.erase, Memory.sortedFrom]
  | cons c m ih =>
    have hm : Memory.sortedFrom (some c.1) m = true := by
      cases lo <;> simp [Memory.sortedFrom] at h
      · exact h
      · exact h.2
    by_cases hc : c.1 = a
    · simp only [Memory.erase, hc, if_true]
      cases lo with
      | none => exact Memory.sortedFrom_weaken (ih hm)
      | some x =>
        simp only [Memory.sortedFrom, Bool.and_eq_true, decide_eq_true_eq] at h
        exact Memory.sortedFrom_lower (Nat.le_of_lt h.1) (ih hm)
    · simp only [Memory.erase, hc, if_false]
      cases lo with
      | none => simpa [Memory.sortedFrom] using ih hm
      | some x =>
        simp only [Memory.sortedFrom, Bool.and_eq_true, decide_eq_true_eq] at h ⊢
        exact ⟨h.1, ih hm⟩

theorem Memory.sortedFrom_place {m : Memory} {a : Nat} {b : Byte} {lo : Option Nat}
    (h : Memory.sortedFrom lo m = true) (hlo : ∀ x, lo = some x → x < a) (hm : ∀ c ∈ m, c.1 ≠ a) :
    Memory.sortedFrom lo (m.place a b) = true := by
  induction m generalizing lo with
  | nil =>
    cases lo with
    | none => rfl
    | some x => simp [Memory.place, Memory.sortedFrom, hlo x rfl]
  | cons c m ih =>
    have hc : c.1 ≠ a := hm c (by simp)
    have ht : Memory.sortedFrom (some c.1) m = true := by
      cases lo <;> simp [Memory.sortedFrom] at h
      · exact h
      · exact h.2
    by_cases hlt : a < c.1
    · simp only [Memory.place, hlt, if_true]
      cases lo with
      | none => simp [Memory.sortedFrom, hlt, ht]
      | some x => simp [Memory.sortedFrom, hlo x rfl, hlt, ht]
    · simp only [Memory.place, hlt, if_false]
      have hr := ih ht (fun x hx => by have := Option.some.inj hx; omega) fun c' hc' => hm c' (by simp [hc'])
      cases lo with
      | none => simpa [Memory.sortedFrom] using hr
      | some x =>
        simp only [Memory.sortedFrom, Bool.and_eq_true, decide_eq_true_eq] at h ⊢
        exact ⟨h.1, hr⟩

/-- A write keeps the canonical form. -/
theorem Memory.wf_write {d : Option Byte} {m : Memory} (a : Nat) (b : Byte) (h : Memory.wf d m = true) :
    Memory.wf d (m.write d a b) = true := by
  simp only [Memory.wf, Bool.and_eq_true, List.all_eq_true] at h ⊢
  unfold Memory.write
  split
  · exact ⟨Memory.sortedFrom_erase h.1, fun c hc => h.2 c (Memory.mem_erase.mp hc).1⟩
  · next hd =>
    refine ⟨Memory.sortedFrom_place (Memory.sortedFrom_erase h.1) (fun x hx => by cases hx)
      fun c hc => (Memory.mem_erase.mp hc).2, fun c hc => ?_⟩
    rcases Memory.mem_place.mp hc with rfl | hc
    · simpa using hd
    · exact h.2 c (Memory.mem_erase.mp hc).1

/-- A write below `size` keeps every listed offset below `size`. -/
theorem Memory.within_write {d : Option Byte} {m : Memory} {size a : Nat} (b : Byte) (ha : a < size)
    (h : Memory.within size m = true) : Memory.within size (m.write d a b) = true := by
  simp only [Memory.within, List.all_eq_true, decide_eq_true_eq] at h ⊢
  intro c hc
  unfold Memory.write at hc
  split at hc
  · exact h c (Memory.mem_erase.mp hc).1
  · rcases Memory.mem_place.mp hc with rfl | hc
    · exact ha
    · exact h c (Memory.mem_erase.mp hc).1

/-- Writing a range keeps the canonical form. -/
theorem Memory.wf_writeRange {d : Option Byte} {m : Memory} (a : Nat) (bs : List Byte) (h : Memory.wf d m = true) :
    Memory.wf d (Memory.writeRange d m a bs) = true := by
  induction bs generalizing m a with
  | nil => exact h
  | cons b bs ih => exact ih _ (Memory.wf_write a b h)

/-- Writing a range below `size` keeps every listed offset below `size`. -/
theorem Memory.within_writeRange {d : Option Byte} {m : Memory} {size a : Nat} (bs : List Byte)
    (ha : a + bs.length ≤ size) (h : Memory.within size m = true) :
    Memory.within size (Memory.writeRange d m a bs) = true := by
  induction bs generalizing m a with
  | nil => exact h
  | cons b bs ih =>
    simp only [List.length_cons] at ha
    exact ih (by omega) (Memory.within_write b (by omega) h)

/-- Writing a block keeps the canonical form. -/
theorem Memory.wf_writeBlock {d : Option Byte} {m : Memory} (a : Nat) (b : Block) (h : Memory.wf d m = true) :
    Memory.wf d (m.writeBlock d a b) = true := Memory.wf_writeRange a _ h

/-- Writing a block below `size` keeps every listed offset below `size`. -/
theorem Memory.within_writeBlock {d : Option Byte} {m : Memory} {size a : Nat} (b : Block) (ha : a + 16 ≤ size)
    (h : Memory.within size m = true) : Memory.within size (m.writeBlock d a b) = true :=
  Memory.within_writeRange (blockBytes b) ha h

@[simp] theorem Memory.wf_nil (d : Option Byte) : Memory.wf d [] = true := rfl

@[simp] theorem Memory.within_nil (size : Nat) : Memory.within size [] = true := rfl

@[simp] theorem Memory.read_nil (d : Option Byte) (a : Nat) : Memory.read d [] a = d := rfl

/-- An offset that a space does not list reads as an unlisted one. -/
theorem Memory.read_of_not_listed (d : Option Byte) (m : Memory) (a : Nat) (h : ∀ c ∈ m, c.1 ≠ a) :
    Memory.read d m a = d := by
  induction m with
  | nil => rfl
  | cons c m ih =>
    simp [Memory.read, h c (by simp), ih fun c' hc' => h c' (by simp [hc'])]

end Sys2Proof.Machine
end

