-- ==== Sys2Proof/Laws/State.lean ====
section
/-! SUPPORT. One lemma per field per update of the state, and the bytes a store leaves. -/

namespace Sys2Proof.Machine

/-! ## `issueClear` -/

@[simp] theorem issueClear_keyed (s : State) : (issueClear s).keyed = s.keyed := rfl
@[simp] theorem issueClear_nk (s : State) : (issueClear s).nk = s.nk := rfl
@[simp] theorem issueClear_rk (s : State) : (issueClear s).rk = s.rk := rfl
@[simp] theorem issueClear_phase (s : State) : (issueClear s).phase = s.phase := rfl
@[simp] theorem issueClear_len (s : State) : (issueClear s).len = s.len := rfl
@[simp] theorem issueClear_klen (s : State) : (issueClear s).klen = s.klen := rfl
@[simp] theorem issueClear_ivreg (s : State) : (issueClear s).ivreg = s.ivreg := rfl
@[simp] theorem issueClear_chain (s : State) : (issueClear s).chain = s.chain := rfl
@[simp] theorem issueClear_nblk (s : State) : (issueClear s).nblk = s.nblk := rfl
@[simp] theorem issueClear_idx (s : State) : (issueClear s).idx = s.idx := rfl
@[simp] theorem issueClear_work (s : State) : (issueClear s).work = s.work := rfl
@[simp] theorem issueClear_wlen (s : State) : (issueClear s).wlen = s.wlen := rfl
@[simp] theorem issueClear_rngPending (s : State) : (issueClear s).rngPending = s.rngPending := rfl
@[simp] theorem issueClear_done (s : State) : (issueClear s).done = false := rfl
@[simp] theorem issueClear_err (s : State) : (issueClear s).err = none := rfl
@[simp] theorem issueClear_keylen (s : State) : (issueClear s).keylen = s.keylen := rfl
@[simp] theorem issueClear_inlen (s : State) : (issueClear s).inlen = s.inlen := rfl
@[simp] theorem issueClear_outlen (s : State) : (issueClear s).outlen = 0#32 := rfl
@[simp] theorem issueClear_key (s : State) : (issueClear s).key = s.key := rfl
@[simp] theorem issueClear_inBuf (s : State) : (issueClear s).inBuf = s.inBuf := rfl
@[simp] theorem issueClear_outBuf (s : State) : (issueClear s).outBuf = [] := rfl
@[simp] theorem issueClear_maxPt (s : State) : (issueClear s).maxPt = s.maxPt := rfl
@[simp] theorem issueClear_rngReqs (s : State) : (issueClear s).rngReqs = s.rngReqs := rfl
@[simp] theorem issueClear_rngScript (s : State) : (issueClear s).rngScript = s.rngScript := rfl
@[simp] theorem issueClear_rngSilent (s : State) : (issueClear s).rngSilent = s.rngSilent := rfl
@[simp] theorem issueClear_draws (s : State) : (issueClear s).draws = s.draws := rfl
@[simp] theorem issueClear_inputs (s : State) : (issueClear s).inputs = s.inputs := rfl
@[simp] theorem issueClear_reads (s : State) : (issueClear s).reads = s.reads := rfl

/-! ## `issue` -/

@[simp] theorem issue_keyed (p : Phase) (s : State) : (issue p s).keyed = s.keyed := rfl
@[simp] theorem issue_nk (p : Phase) (s : State) : (issue p s).nk = s.nk := rfl
@[simp] theorem issue_rk (p : Phase) (s : State) : (issue p s).rk = s.rk := rfl
@[simp] theorem issue_phase (p : Phase) (s : State) : (issue p s).phase = p := rfl
@[simp] theorem issue_len (p : Phase) (s : State) : (issue p s).len = s.len := rfl
@[simp] theorem issue_klen (p : Phase) (s : State) : (issue p s).klen = s.klen := rfl
@[simp] theorem issue_ivreg (p : Phase) (s : State) : (issue p s).ivreg = s.ivreg := rfl
@[simp] theorem issue_chain (p : Phase) (s : State) : (issue p s).chain = s.chain := rfl
@[simp] theorem issue_nblk (p : Phase) (s : State) : (issue p s).nblk = s.nblk := rfl
@[simp] theorem issue_idx (p : Phase) (s : State) : (issue p s).idx = s.idx := rfl
@[simp] theorem issue_work (p : Phase) (s : State) : (issue p s).work = s.work := rfl
@[simp] theorem issue_wlen (p : Phase) (s : State) : (issue p s).wlen = s.wlen := rfl
@[simp] theorem issue_rngPending (p : Phase) (s : State) : (issue p s).rngPending = s.rngPending := rfl
@[simp] theorem issue_done (p : Phase) (s : State) : (issue p s).done = false := rfl
@[simp] theorem issue_err (p : Phase) (s : State) : (issue p s).err = none := rfl
@[simp] theorem issue_keylen (p : Phase) (s : State) : (issue p s).keylen = s.keylen := rfl
@[simp] theorem issue_inlen (p : Phase) (s : State) : (issue p s).inlen = s.inlen := rfl
@[simp] theorem issue_outlen (p : Phase) (s : State) : (issue p s).outlen = 0#32 := rfl
@[simp] theorem issue_key (p : Phase) (s : State) : (issue p s).key = s.key := rfl
@[simp] theorem issue_inBuf (p : Phase) (s : State) : (issue p s).inBuf = s.inBuf := rfl
@[simp] theorem issue_outBuf (p : Phase) (s : State) : (issue p s).outBuf = [] := rfl
@[simp] theorem issue_maxPt (p : Phase) (s : State) : (issue p s).maxPt = s.maxPt := rfl
@[simp] theorem issue_rngReqs (p : Phase) (s : State) : (issue p s).rngReqs = s.rngReqs := rfl
@[simp] theorem issue_rngScript (p : Phase) (s : State) : (issue p s).rngScript = s.rngScript := rfl
@[simp] theorem issue_rngSilent (p : Phase) (s : State) : (issue p s).rngSilent = s.rngSilent := rfl
@[simp] theorem issue_draws (p : Phase) (s : State) : (issue p s).draws = s.draws := rfl
@[simp] theorem issue_inputs (p : Phase) (s : State) : (issue p s).inputs = s.inputs := rfl
@[simp] theorem issue_reads (p : Phase) (s : State) : (issue p s).reads = s.reads := rfl

/-! ## `raise` -/

@[simp] theorem raise_keyed (k : ErrorKind) (s : State) : (raise k s).keyed = s.keyed := rfl
@[simp] theorem raise_nk (k : ErrorKind) (s : State) : (raise k s).nk = s.nk := rfl
@[simp] theorem raise_rk (k : ErrorKind) (s : State) : (raise k s).rk = s.rk := rfl
@[simp] theorem raise_phase (k : ErrorKind) (s : State) : (raise k s).phase = .idle := rfl
@[simp] theorem raise_len (k : ErrorKind) (s : State) : (raise k s).len = s.len := rfl
@[simp] theorem raise_klen (k : ErrorKind) (s : State) : (raise k s).klen = s.klen := rfl
@[simp] theorem raise_ivreg (k : ErrorKind) (s : State) : (raise k s).ivreg = s.ivreg := rfl
@[simp] theorem raise_chain (k : ErrorKind) (s : State) : (raise k s).chain = s.chain := rfl
@[simp] theorem raise_nblk (k : ErrorKind) (s : State) : (raise k s).nblk = s.nblk := rfl
@[simp] theorem raise_idx (k : ErrorKind) (s : State) : (raise k s).idx = s.idx := rfl
@[simp] theorem raise_work (k : ErrorKind) (s : State) : (raise k s).work = s.work := rfl
@[simp] theorem raise_wlen (k : ErrorKind) (s : State) : (raise k s).wlen = s.wlen := rfl
@[simp] theorem raise_rngPending (k : ErrorKind) (s : State) : (raise k s).rngPending = false := rfl
@[simp] theorem raise_done (k : ErrorKind) (s : State) : (raise k s).done = true := rfl
@[simp] theorem raise_err (k : ErrorKind) (s : State) : (raise k s).err = some k := rfl
@[simp] theorem raise_keylen (k : ErrorKind) (s : State) : (raise k s).keylen = s.keylen := rfl
@[simp] theorem raise_inlen (k : ErrorKind) (s : State) : (raise k s).inlen = s.inlen := rfl
@[simp] theorem raise_outlen (k : ErrorKind) (s : State) : (raise k s).outlen = 0#32 := rfl
@[simp] theorem raise_key (k : ErrorKind) (s : State) : (raise k s).key = s.key := rfl
@[simp] theorem raise_inBuf (k : ErrorKind) (s : State) : (raise k s).inBuf = s.inBuf := rfl
@[simp] theorem raise_outBuf (k : ErrorKind) (s : State) : (raise k s).outBuf = [] := rfl
@[simp] theorem raise_maxPt (k : ErrorKind) (s : State) : (raise k s).maxPt = s.maxPt := rfl
@[simp] theorem raise_rngReqs (k : ErrorKind) (s : State) : (raise k s).rngReqs = s.rngReqs := rfl
@[simp] theorem raise_rngScript (k : ErrorKind) (s : State) : (raise k s).rngScript = s.rngScript := rfl
@[simp] theorem raise_rngSilent (k : ErrorKind) (s : State) : (raise k s).rngSilent = s.rngSilent := rfl
@[simp] theorem raise_draws (k : ErrorKind) (s : State) : (raise k s).draws = s.draws := rfl
@[simp] theorem raise_inputs (k : ErrorKind) (s : State) : (raise k s).inputs = s.inputs := rfl
@[simp] theorem raise_reads (k : ErrorKind) (s : State) : (raise k s).reads = s.reads := rfl

/-! ## `finish` -/

@[simp] theorem finish_keyed (s : State) : (finish s).keyed = s.keyed := rfl
@[simp] theorem finish_nk (s : State) : (finish s).nk = s.nk := rfl
@[simp] theorem finish_rk (s : State) : (finish s).rk = s.rk := rfl
@[simp] theorem finish_phase (s : State) : (finish s).phase = .idle := rfl
@[simp] theorem finish_len (s : State) : (finish s).len = s.len := rfl
@[simp] theorem finish_klen (s : State) : (finish s).klen = s.klen := rfl
@[simp] theorem finish_ivreg (s : State) : (finish s).ivreg = s.ivreg := rfl
@[simp] theorem finish_chain (s : State) : (finish s).chain = s.chain := rfl
@[simp] theorem finish_nblk (s : State) : (finish s).nblk = s.nblk := rfl
@[simp] theorem finish_idx (s : State) : (finish s).idx = s.idx := rfl
@[simp] theorem finish_work (s : State) : (finish s).work = s.work := rfl
@[simp] theorem finish_wlen (s : State) : (finish s).wlen = s.wlen := rfl
@[simp] theorem finish_rngPending (s : State) : (finish s).rngPending = s.rngPending := rfl
@[simp] theorem finish_done (s : State) : (finish s).done = true := rfl
@[simp] theorem finish_err (s : State) : (finish s).err = s.err := rfl
@[simp] theorem finish_keylen (s : State) : (finish s).keylen = s.keylen := rfl
@[simp] theorem finish_inlen (s : State) : (finish s).inlen = s.inlen := rfl
@[simp] theorem finish_outlen (s : State) : (finish s).outlen = s.outlen := rfl
@[simp] theorem finish_key (s : State) : (finish s).key = s.key := rfl
@[simp] theorem finish_inBuf (s : State) : (finish s).inBuf = s.inBuf := rfl
@[simp] theorem finish_outBuf (s : State) : (finish s).outBuf = s.outBuf := rfl
@[simp] theorem finish_maxPt (s : State) : (finish s).maxPt = s.maxPt := rfl
@[simp] theorem finish_rngReqs (s : State) : (finish s).rngReqs = s.rngReqs := rfl
@[simp] theorem finish_rngScript (s : State) : (finish s).rngScript = s.rngScript := rfl
@[simp] theorem finish_rngSilent (s : State) : (finish s).rngSilent = s.rngSilent := rfl
@[simp] theorem finish_draws (s : State) : (finish s).draws = s.draws := rfl
@[simp] theorem finish_inputs (s : State) : (finish s).inputs = s.inputs := rfl
@[simp] theorem finish_reads (s : State) : (finish s).reads = s.reads := rfl

/-! ## `resetEngine` -/

@[simp] theorem resetEngine_keyed (s : State) : (resetEngine s).keyed = State.reset.keyed := rfl
@[simp] theorem resetEngine_nk (s : State) : (resetEngine s).nk = State.reset.nk := rfl
@[simp] theorem resetEngine_rk (s : State) : (resetEngine s).rk = State.reset.rk := rfl
@[simp] theorem resetEngine_phase (s : State) : (resetEngine s).phase = State.reset.phase := rfl
@[simp] theorem resetEngine_len (s : State) : (resetEngine s).len = State.reset.len := rfl
@[simp] theorem resetEngine_klen (s : State) : (resetEngine s).klen = State.reset.klen := rfl
@[simp] theorem resetEngine_ivreg (s : State) : (resetEngine s).ivreg = State.reset.ivreg := rfl
@[simp] theorem resetEngine_chain (s : State) : (resetEngine s).chain = State.reset.chain := rfl
@[simp] theorem resetEngine_nblk (s : State) : (resetEngine s).nblk = State.reset.nblk := rfl
@[simp] theorem resetEngine_idx (s : State) : (resetEngine s).idx = State.reset.idx := rfl
@[simp] theorem resetEngine_work (s : State) : (resetEngine s).work = State.reset.work := rfl
@[simp] theorem resetEngine_wlen (s : State) : (resetEngine s).wlen = State.reset.wlen := rfl
@[simp] theorem resetEngine_rngPending (s : State) : (resetEngine s).rngPending = State.reset.rngPending := rfl
@[simp] theorem resetEngine_done (s : State) : (resetEngine s).done = State.reset.done := rfl
@[simp] theorem resetEngine_err (s : State) : (resetEngine s).err = State.reset.err := rfl
@[simp] theorem resetEngine_keylen (s : State) : (resetEngine s).keylen = State.reset.keylen := rfl
@[simp] theorem resetEngine_inlen (s : State) : (resetEngine s).inlen = State.reset.inlen := rfl
@[simp] theorem resetEngine_outlen (s : State) : (resetEngine s).outlen = State.reset.outlen := rfl
@[simp] theorem resetEngine_key (s : State) : (resetEngine s).key = State.reset.key := rfl
@[simp] theorem resetEngine_inBuf (s : State) : (resetEngine s).inBuf = State.reset.inBuf := rfl
@[simp] theorem resetEngine_outBuf (s : State) : (resetEngine s).outBuf = State.reset.outBuf := rfl
@[simp] theorem resetEngine_maxPt (s : State) : (resetEngine s).maxPt = s.maxPt := rfl
@[simp] theorem resetEngine_rngReqs (s : State) : (resetEngine s).rngReqs = s.rngReqs := rfl
@[simp] theorem resetEngine_rngScript (s : State) : (resetEngine s).rngScript = s.rngScript := rfl
@[simp] theorem resetEngine_rngSilent (s : State) : (resetEngine s).rngSilent = s.rngSilent := rfl
@[simp] theorem resetEngine_draws (s : State) : (resetEngine s).draws = s.draws := rfl
@[simp] theorem resetEngine_inputs (s : State) : (resetEngine s).inputs = s.inputs := rfl
@[simp] theorem resetEngine_reads (s : State) : (resetEngine s).reads = s.reads := rfl

/-! ## `State.noteRead` -/

@[simp] theorem noteRead_keyed (r : ReadValue) (s : State) : (s.noteRead r).keyed = s.keyed := rfl
@[simp] theorem noteRead_nk (r : ReadValue) (s : State) : (s.noteRead r).nk = s.nk := rfl
@[simp] theorem noteRead_rk (r : ReadValue) (s : State) : (s.noteRead r).rk = s.rk := rfl
@[simp] theorem noteRead_phase (r : ReadValue) (s : State) : (s.noteRead r).phase = s.phase := rfl
@[simp] theorem noteRead_len (r : ReadValue) (s : State) : (s.noteRead r).len = s.len := rfl
@[simp] theorem noteRead_klen (r : ReadValue) (s : State) : (s.noteRead r).klen = s.klen := rfl
@[simp] theorem noteRead_ivreg (r : ReadValue) (s : State) : (s.noteRead r).ivreg = s.ivreg := rfl
@[simp] theorem noteRead_chain (r : ReadValue) (s : State) : (s.noteRead r).chain = s.chain := rfl
@[simp] theorem noteRead_nblk (r : ReadValue) (s : State) : (s.noteRead r).nblk = s.nblk := rfl
@[simp] theorem noteRead_idx (r : ReadValue) (s : State) : (s.noteRead r).idx = s.idx := rfl
@[simp] theorem noteRead_work (r : ReadValue) (s : State) : (s.noteRead r).work = s.work := rfl
@[simp] theorem noteRead_wlen (r : ReadValue) (s : State) : (s.noteRead r).wlen = s.wlen := rfl
@[simp] theorem noteRead_rngPending (r : ReadValue) (s : State) : (s.noteRead r).rngPending = s.rngPending := rfl
@[simp] theorem noteRead_done (r : ReadValue) (s : State) : (s.noteRead r).done = s.done := rfl
@[simp] theorem noteRead_err (r : ReadValue) (s : State) : (s.noteRead r).err = s.err := rfl
@[simp] theorem noteRead_keylen (r : ReadValue) (s : State) : (s.noteRead r).keylen = s.keylen := rfl
@[simp] theorem noteRead_inlen (r : ReadValue) (s : State) : (s.noteRead r).inlen = s.inlen := rfl
@[simp] theorem noteRead_outlen (r : ReadValue) (s : State) : (s.noteRead r).outlen = s.outlen := rfl
@[simp] theorem noteRead_key (r : ReadValue) (s : State) : (s.noteRead r).key = s.key := rfl
@[simp] theorem noteRead_inBuf (r : ReadValue) (s : State) : (s.noteRead r).inBuf = s.inBuf := rfl
@[simp] theorem noteRead_outBuf (r : ReadValue) (s : State) : (s.noteRead r).outBuf = s.outBuf := rfl
@[simp] theorem noteRead_maxPt (r : ReadValue) (s : State) : (s.noteRead r).maxPt = s.maxPt := rfl
@[simp] theorem noteRead_rngReqs (r : ReadValue) (s : State) : (s.noteRead r).rngReqs = s.rngReqs := rfl
@[simp] theorem noteRead_rngScript (r : ReadValue) (s : State) : (s.noteRead r).rngScript = s.rngScript := rfl
@[simp] theorem noteRead_rngSilent (r : ReadValue) (s : State) : (s.noteRead r).rngSilent = s.rngSilent := rfl
@[simp] theorem noteRead_draws (r : ReadValue) (s : State) : (s.noteRead r).draws = s.draws := rfl
@[simp] theorem noteRead_inputs (r : ReadValue) (s : State) : (s.noteRead r).inputs = s.inputs := rfl
@[simp] theorem noteRead_reads (r : ReadValue) (s : State) : (s.noteRead r).reads = s.reads ++ [r] := rfl

/-! ## `State.before` -/

@[simp] theorem before_keyed (ls : List HostLine) (s : State) : (s.before ls).keyed = s.keyed := rfl
@[simp] theorem before_nk (ls : List HostLine) (s : State) : (s.before ls).nk = s.nk := rfl
@[simp] theorem before_rk (ls : List HostLine) (s : State) : (s.before ls).rk = s.rk := rfl
@[simp] theorem before_phase (ls : List HostLine) (s : State) : (s.before ls).phase = s.phase := rfl
@[simp] theorem before_len (ls : List HostLine) (s : State) : (s.before ls).len = s.len := rfl
@[simp] theorem before_klen (ls : List HostLine) (s : State) : (s.before ls).klen = s.klen := rfl
@[simp] theorem before_ivreg (ls : List HostLine) (s : State) : (s.before ls).ivreg = s.ivreg := rfl
@[simp] theorem before_chain (ls : List HostLine) (s : State) : (s.before ls).chain = s.chain := rfl
@[simp] theorem before_nblk (ls : List HostLine) (s : State) : (s.before ls).nblk = s.nblk := rfl
@[simp] theorem before_idx (ls : List HostLine) (s : State) : (s.before ls).idx = s.idx := rfl
@[simp] theorem before_work (ls : List HostLine) (s : State) : (s.before ls).work = s.work := rfl
@[simp] theorem before_wlen (ls : List HostLine) (s : State) : (s.before ls).wlen = s.wlen := rfl
@[simp] theorem before_rngPending (ls : List HostLine) (s : State) : (s.before ls).rngPending = s.rngPending := rfl
@[simp] theorem before_done (ls : List HostLine) (s : State) : (s.before ls).done = s.done := rfl
@[simp] theorem before_err (ls : List HostLine) (s : State) : (s.before ls).err = s.err := rfl
@[simp] theorem before_keylen (ls : List HostLine) (s : State) : (s.before ls).keylen = s.keylen := rfl
@[simp] theorem before_inlen (ls : List HostLine) (s : State) : (s.before ls).inlen = s.inlen := rfl
@[simp] theorem before_outlen (ls : List HostLine) (s : State) : (s.before ls).outlen = s.outlen := rfl
@[simp] theorem before_key (ls : List HostLine) (s : State) : (s.before ls).key = s.key := rfl
@[simp] theorem before_inBuf (ls : List HostLine) (s : State) : (s.before ls).inBuf = s.inBuf := rfl
@[simp] theorem before_outBuf (ls : List HostLine) (s : State) : (s.before ls).outBuf = s.outBuf := rfl
@[simp] theorem before_maxPt (ls : List HostLine) (s : State) : (s.before ls).maxPt = s.maxPt := rfl
@[simp] theorem before_rngReqs (ls : List HostLine) (s : State) : (s.before ls).rngReqs = s.rngReqs := rfl
@[simp] theorem before_rngScript (ls : List HostLine) (s : State) : (s.before ls).rngScript = s.rngScript := rfl
@[simp] theorem before_rngSilent (ls : List HostLine) (s : State) : (s.before ls).rngSilent = s.rngSilent := rfl
@[simp] theorem before_draws (ls : List HostLine) (s : State) : (s.before ls).draws = s.draws := rfl
@[simp] theorem before_inputs (ls : List HostLine) (s : State) : (s.before ls).inputs = ls.map .host ++ s.inputs := rfl
@[simp] theorem before_reads (ls : List HostLine) (s : State) : (s.before ls).reads = s.reads := rfl

/-! ## Stores -/

@[simp] theorem setRegion_keyed (s : State) (r : Region) (m : Memory) : (s.setRegion r m).keyed = s.keyed := by cases r <;> rfl
@[simp] theorem setRegion_nk (s : State) (r : Region) (m : Memory) : (s.setRegion r m).nk = s.nk := by cases r <;> rfl
@[simp] theorem setRegion_rk (s : State) (r : Region) (m : Memory) : (s.setRegion r m).rk = s.rk := by cases r <;> rfl
@[simp] theorem setRegion_phase (s : State) (r : Region) (m : Memory) : (s.setRegion r m).phase = s.phase := by cases r <;> rfl
@[simp] theorem setRegion_len (s : State) (r : Region) (m : Memory) : (s.setRegion r m).len = s.len := by cases r <;> rfl
@[simp] theorem setRegion_klen (s : State) (r : Region) (m : Memory) : (s.setRegion r m).klen = s.klen := by cases r <;> rfl
@[simp] theorem setRegion_ivreg (s : State) (r : Region) (m : Memory) : (s.setRegion r m).ivreg = s.ivreg := by cases r <;> rfl
@[simp] theorem setRegion_chain (s : State) (r : Region) (m : Memory) : (s.setRegion r m).chain = s.chain := by cases r <;> rfl
@[simp] theorem setRegion_nblk (s : State) (r : Region) (m : Memory) : (s.setRegion r m).nblk = s.nblk := by cases r <;> rfl
@[simp] theorem setRegion_idx (s : State) (r : Region) (m : Memory) : (s.setRegion r m).idx = s.idx := by cases r <;> rfl
@[simp] theorem setRegion_wlen (s : State) (r : Region) (m : Memory) : (s.setRegion r m).wlen = s.wlen := by cases r <;> rfl
@[simp] theorem setRegion_rngPending (s : State) (r : Region) (m : Memory) : (s.setRegion r m).rngPending = s.rngPending := by cases r <;> rfl
@[simp] theorem setRegion_done (s : State) (r : Region) (m : Memory) : (s.setRegion r m).done = s.done := by cases r <;> rfl
@[simp] theorem setRegion_err (s : State) (r : Region) (m : Memory) : (s.setRegion r m).err = s.err := by cases r <;> rfl
@[simp] theorem setRegion_keylen (s : State) (r : Region) (m : Memory) : (s.setRegion r m).keylen = s.keylen := by cases r <;> rfl
@[simp] theorem setRegion_inlen (s : State) (r : Region) (m : Memory) : (s.setRegion r m).inlen = s.inlen := by cases r <;> rfl
@[simp] theorem setRegion_outlen (s : State) (r : Region) (m : Memory) : (s.setRegion r m).outlen = s.outlen := by cases r <;> rfl
@[simp] theorem setRegion_maxPt (s : State) (r : Region) (m : Memory) : (s.setRegion r m).maxPt = s.maxPt := by cases r <;> rfl
@[simp] theorem setRegion_rngReqs (s : State) (r : Region) (m : Memory) : (s.setRegion r m).rngReqs = s.rngReqs := by cases r <;> rfl
@[simp] theorem setRegion_rngScript (s : State) (r : Region) (m : Memory) : (s.setRegion r m).rngScript = s.rngScript := by cases r <;> rfl
@[simp] theorem setRegion_rngSilent (s : State) (r : Region) (m : Memory) : (s.setRegion r m).rngSilent = s.rngSilent := by cases r <;> rfl
@[simp] theorem setRegion_draws (s : State) (r : Region) (m : Memory) : (s.setRegion r m).draws = s.draws := by cases r <;> rfl
@[simp] theorem setRegion_inputs (s : State) (r : Region) (m : Memory) : (s.setRegion r m).inputs = s.inputs := by cases r <;> rfl
@[simp] theorem setRegion_reads (s : State) (r : Region) (m : Memory) : (s.setRegion r m).reads = s.reads := by cases r <;> rfl

@[simp] theorem store_keyed (s : State) (r : Region) (a : Nat) (b : Byte) : (s.store r a b).keyed = s.keyed := by cases r <;> rfl
@[simp] theorem store_nk (s : State) (r : Region) (a : Nat) (b : Byte) : (s.store r a b).nk = s.nk := by cases r <;> rfl
@[simp] theorem store_rk (s : State) (r : Region) (a : Nat) (b : Byte) : (s.store r a b).rk = s.rk := by cases r <;> rfl
@[simp] theorem store_phase (s : State) (r : Region) (a : Nat) (b : Byte) : (s.store r a b).phase = s.phase := by cases r <;> rfl
@[simp] theorem store_len (s : State) (r : Region) (a : Nat) (b : Byte) : (s.store r a b).len = s.len := by cases r <;> rfl
@[simp] theorem store_klen (s : State) (r : Region) (a : Nat) (b : Byte) : (s.store r a b).klen = s.klen := by cases r <;> rfl
@[simp] theorem store_ivreg (s : State) (r : Region) (a : Nat) (b : Byte) : (s.store r a b).ivreg = s.ivreg := by cases r <;> rfl
@[simp] theorem store_chain (s : State) (r : Region) (a : Nat) (b : Byte) : (s.store r a b).chain = s.chain := by cases r <;> rfl
@[simp] theorem store_nblk (s : State) (r : Region) (a : Nat) (b : Byte) : (s.store r a b).nblk = s.nblk := by cases r <;> rfl
@[simp] theorem store_idx (s : State) (r : Region) (a : Nat) (b : Byte) : (s.store r a b).idx = s.idx := by cases r <;> rfl
@[simp] theorem store_wlen (s : State) (r : Region) (a : Nat) (b : Byte) : (s.store r a b).wlen = s.wlen := by cases r <;> rfl
@[simp] theorem store_rngPending (s : State) (r : Region) (a : Nat) (b : Byte) : (s.store r a b).rngPending = s.rngPending := by cases r <;> rfl
@[simp] theorem store_done (s : State) (r : Region) (a : Nat) (b : Byte) : (s.store r a b).done = s.done := by cases r <;> rfl
@[simp] theorem store_err (s : State) (r : Region) (a : Nat) (b : Byte) : (s.store r a b).err = s.err := by cases r <;> rfl
@[simp] theorem store_keylen (s : State) (r : Region) (a : Nat) (b : Byte) : (s.store r a b).keylen = s.keylen := by cases r <;> rfl
@[simp] theorem store_inlen (s : State) (r : Region) (a : Nat) (b : Byte) : (s.store r a b).inlen = s.inlen := by cases r <;> rfl
@[simp] theorem store_outlen (s : State) (r : Region) (a : Nat) (b : Byte) : (s.store r a b).outlen = s.outlen := by cases r <;> rfl
@[simp] theorem store_maxPt (s : State) (r : Region) (a : Nat) (b : Byte) : (s.store r a b).maxPt = s.maxPt := by cases r <;> rfl
@[simp] theorem store_rngReqs (s : State) (r : Region) (a : Nat) (b : Byte) : (s.store r a b).rngReqs = s.rngReqs := by cases r <;> rfl
@[simp] theorem store_rngScript (s : State) (r : Region) (a : Nat) (b : Byte) : (s.store r a b).rngScript = s.rngScript := by cases r <;> rfl
@[simp] theorem store_rngSilent (s : State) (r : Region) (a : Nat) (b : Byte) : (s.store r a b).rngSilent = s.rngSilent := by cases r <;> rfl
@[simp] theorem store_draws (s : State) (r : Region) (a : Nat) (b : Byte) : (s.store r a b).draws = s.draws := by cases r <;> rfl
@[simp] theorem store_inputs (s : State) (r : Region) (a : Nat) (b : Byte) : (s.store r a b).inputs = s.inputs := by cases r <;> rfl
@[simp] theorem store_reads (s : State) (r : Region) (a : Nat) (b : Byte) : (s.store r a b).reads = s.reads := by cases r <;> rfl

/-! ## Bytes -/

@[simp] theorem region_setRegion_same (s : State) (r : Region) (m : Memory) : (s.setRegion r m).region r = m := by
  cases r <;> rfl

theorem region_setRegion_other (s : State) {r q : Region} (m : Memory) (h : q ≠ r) :
    (s.setRegion r m).region q = s.region q := by
  cases r <;> cases q <;> first | rfl | exact absurd rfl h

theorem region_store_other (s : State) {r q : Region} (a : Nat) (b : Byte) (h : q ≠ r) :
    (s.store r a b).region q = s.region q := region_setRegion_other s _ h

/-- A byte stored is read back. -/
theorem load_store_same (s : State) (r : Region) (a : Nat) (b : Byte) : (s.store r a b).load r a = some b := by
  simp [State.load, State.store, Memory.read_write_same]

/-- A store leaves every other byte as it was. -/
theorem load_store_other (s : State) {r q : Region} {a x : Nat} (b : Byte) (h : q ≠ r ∨ x ≠ a) :
    (s.store r a b).load q x = s.load q x := by
  unfold State.load
  by_cases hq : q = r
  · subst hq
    have hx : x ≠ a := h.resolve_left fun hn => hn rfl
    simp [State.store, Memory.read_write_other _ _ b hx]
  · rw [region_store_other s a b hq]

/-! A byte of a space is a read of the space's cells. -/

theorem load_key (s : State) (x : Nat) : s.load .key x = Memory.read (some 0#8) s.key x := rfl

theorem load_inBuf (s : State) (x : Nat) : s.load .inBuf x = Memory.read none s.inBuf x := rfl

theorem load_outBuf (s : State) (x : Nat) : s.load .outBuf x = Memory.read none s.outBuf x := rfl

theorem load_work (s : State) (x : Nat) : s.load .work x = Memory.read none s.work x := rfl

/-- A space that is not stored to keeps its bytes when only its cells are compared. -/
theorem load_congr {s t : State} {r : Region} (h : t.region r = s.region r) (a : Nat) :
    t.load r a = s.load r a := by rw [State.load, h, State.load]

end Sys2Proof.Machine
end

