-- ==== Sys2Proof/Laws/Ops.lean ====
section
/-! SUPPORT. What each shared operation can do, said once: ranges and blocks of bytes, the canonical form, lengths,
padding and stripping. -/

namespace Sys2Proof.Machine

/-! ## Ranges -/

/-- A range that loads has the asked length, and its bytes are the space's. -/
theorem loadRange_ok {s : State} {r : Region} {a n : Nat} {bs : List Byte}
    (h : s.loadRange r a n = .ok bs) : bs.length = n ∧ ∀ j, j < n → s.load r (a + j) = bs[j]? := by
  unfold State.loadRange at h
  induction n generalizing a bs with
  | zero => cases h; simp
  | succ n ih =>
    unfold Memory.readRange at h
    split at h
    · cases h
    · next b hb =>
      split at h
      · cases h
      · next bs' hbs =>
        cases h
        obtain ⟨hl, hj⟩ := ih hbs
        refine ⟨by simp [hl], fun j hj' => ?_⟩
        cases j with
        | zero => simpa [State.load] using hb
        | succ j =>
          have := hj j (by omega)
          simpa [show a + (j + 1) = a + 1 + j by omega] using this

/-- A range that does not load names its first offset without a value. -/
theorem loadRange_error {s : State} {r : Region} {a n off : Nat}
    (h : s.loadRange r a n = .error off) :
    a ≤ off ∧ off < a + n ∧ s.load r off = none ∧ ∀ j, a ≤ j → j < off → (s.load r j).isSome = true := by
  unfold State.loadRange at h
  induction n generalizing a with
  | zero => cases h
  | succ n ih =>
    unfold Memory.readRange at h
    split at h
    · next hb => cases h; exact ⟨by omega, by omega, hb, fun j _ _ => by omega⟩
    · next b hb =>
      split at h
      · next hr =>
        cases h
        obtain ⟨h1, h2, h3, h4⟩ := ih hr
        refine ⟨by omega, by omega, h3, fun j hj1 hj2 => ?_⟩
        by_cases hja : j = a
        · subst hja; rw [State.load, hb]; rfl
        · exact h4 j (by omega) hj2
      · cases h

/-- A range all of whose bytes have values loads. -/
theorem loadRange_of_written {s : State} {r : Region} {a n : Nat}
    (h : ∀ j, j < n → (s.load r (a + j)).isSome = true) : ∃ bs, s.loadRange r a n = .ok bs := by
  cases hr : s.loadRange r a n with
  | ok bs => exact ⟨bs, rfl⟩
  | error off =>
    obtain ⟨h1, h2, h3, _⟩ := loadRange_error hr
    have := h (off - a) (by omega)
    rw [show a + (off - a) = off by omega, h3] at this
    cases this

/-- The range loaded is determined by its bytes. -/
theorem loadRange_eq_ok {s : State} {r : Region} {a : Nat} {bs : List Byte}
    (h : ∀ j, j < bs.length → s.load r (a + j) = bs[j]?) : s.loadRange r a bs.length = .ok bs := by
  obtain ⟨cs, hcs⟩ := loadRange_of_written (s := s) (r := r) (a := a) (n := bs.length)
    fun j hj => by rw [h j hj]; simp [hj]
  obtain ⟨hl, hj⟩ := loadRange_ok hcs
  rw [hcs]
  congr 1
  apply List.ext_getElem?
  intro j
  by_cases hjl : j < bs.length
  · rw [← hj j hjl, h j hjl]
  · rw [List.getElem?_eq_none (by omega), List.getElem?_eq_none (by omega)]

/-- States with the same bytes in a range load the same range. -/
theorem loadRange_congr {s t : State} {r : Region} {a n : Nat}
    (h : ∀ j, j < n → t.load r (a + j) = s.load r (a + j)) : t.loadRange r a n = s.loadRange r a n := by
  unfold State.loadRange
  induction n generalizing a with
  | zero => rfl
  | succ n ih =>
    have h0 := h 0 (by omega)
    simp only [Nat.add_zero, State.load] at h0
    have hr := ih (a := a + 1) fun j hj => by
      have := h (j + 1) (by omega)
      rwa [show a + (j + 1) = a + 1 + j by omega] at this
    unfold Memory.readRange
    rw [h0, hr]

/-- A range written loads as written. -/
theorem readRange_writeRange (d : Option Byte) (m : Memory) (a : Nat) (bs : List Byte) :
    Memory.readRange d (Memory.writeRange d m a bs) a bs.length = .ok bs := by
  suffices h : ∀ (m' : Memory) (bs : List Byte) (a : Nat),
      (∀ j, j < bs.length → Memory.read d m' (a + j) = bs[j]?) → Memory.readRange d m' a bs.length = .ok bs from
    h _ bs a fun _ hj => Memory.read_writeRange_same d m bs hj
  intro m' bs
  induction bs with
  | nil => intro a _; rfl
  | cons b bs ih =>
    intro a h
    have h0 := h 0 (by simp)
    have hr := ih (a + 1) fun j hj => by
      have := h (j + 1) (by simpa using hj)
      simpa [show a + 1 + j = a + (j + 1) by omega] using this
    simp only [Nat.add_zero, List.getElem?_cons_zero] at h0
    simp only [List.length_cons, Memory.readRange, h0, hr]

/-! ## Blocks -/

@[simp] theorem blockBytes_length (b : Block) : (blockBytes b).length = 16 := rfl

@[simp] theorem blockOfBytes_blockBytes (b : Block) : blockOfBytes (blockBytes b) = b := rfl

theorem blockOfBytes_append (b : Block) (bs : List Byte) : blockOfBytes (blockBytes b ++ bs) = b := rfl

/-- Sixteen bytes are the bytes of their block. -/
theorem blockBytes_blockOfBytes {bs : List Byte} (h : bs.length = 16) : blockBytes (blockOfBytes bs) = bs := by
  match bs, h with
  | [_, _, _, _, _, _, _, _, _, _, _, _, _, _, _, _], _ => rfl

/-- A block that loads is sixteen bytes of the space. -/
theorem loadBlock_ok {s : State} {r : Region} {a : Nat} {b : Block} (h : s.loadBlock r a = .ok b) :
    s.loadRange r a 16 = .ok (blockBytes b) := by
  unfold State.loadBlock at h
  split at h
  · cases h
  · next bs hbs => cases h; rw [hbs, blockBytes_blockOfBytes (loadRange_ok hbs).1]

theorem loadBlock_of_range {s : State} {r : Region} {a : Nat} {bs : List Byte} (h : s.loadRange r a 16 = .ok bs) :
    s.loadBlock r a = .ok (blockOfBytes bs) := by simp [State.loadBlock, h]

theorem loadBlock_error {s : State} {r : Region} {a off : Nat} (h : s.loadBlock r a = .error off) :
    a ≤ off ∧ off < a + 16 ∧ s.load r off = none ∧ ∀ j, a ≤ j → j < off → (s.load r j).isSome = true := by
  unfold State.loadBlock at h
  split at h
  · next hr => cases h; exact loadRange_error hr
  · cases h

/-- Block XOR is its own inverse (R114). -/
@[simp] theorem Block.xor_xor_cancel (x y : Block) : (x.xor y).xor y = x := by
  cases x; cases y; simp [Block.xor, Word.xor]

theorem Block.xor_comm (x y : Block) : x.xor y = y.xor x := by
  simp [Block.xor, Word.xor, BitVec.xor_comm]

/-! ## Lengths, padding, stripping -/

theorem ceil16_ge (x : Nat) : x ≤ ceil16 x := by unfold ceil16; omega

theorem ceil16_mod (x : Nat) : ceil16 x % 16 = 0 := by unfold ceil16; omega

theorem ceil16_le {x n : Nat} (hn : n % 16 = 0) (h : x ≤ n) : ceil16 x ≤ n := by unfold ceil16; omega

theorem ceil16_of_mod {x : Nat} (h : x % 16 = 0) : ceil16 x = x := by unfold ceil16; omega

@[simp] theorem padded_length (bs : List Byte) : (padded bs).length = ceil16 bs.length := by
  have := ceil16_ge bs.length
  simp [padded]
  omega

theorem strip_length_le (bs : List Byte) : (strip bs).length ≤ bs.length := by
  induction bs with
  | nil => simp [strip]
  | cons b bs ih =>
    unfold strip
    split
    · simp
    · simpa using ih

/-- A legal key length is one of the three, and four bytes a word. -/
theorem variantOf_some {n : Nat} {v : KeyVariant} (h : variantOf n = some v) : n = 4 * v.words := by
  unfold variantOf at h
  split at h
  · cases h; simpa [KeyVariant.words]
  · split at h
    · cases h; simpa [KeyVariant.words]
    · split at h
      · cases h; simpa [KeyVariant.words]
      · cases h

@[simp] theorem keyBytes_length (s : State) (n : Nat) : (s.keyBytes n).length = n := by simp [State.keyBytes]

/-! ## The canonical form of the spaces -/

theorem State.MemOk.of_spaces {s t : State} (h : s.MemOk) (hk : t.key = s.key) (hi : t.inBuf = s.inBuf)
    (ho : t.outBuf = s.outBuf) (hw : t.work = s.work) (hp : t.maxPt = s.maxPt) : t.MemOk := by
  unfold State.MemOk State.cap at *
  rw [hk, hi, ho, hw, hp]
  exact h

/-- The size of a space (R29, R27). -/
def regionSize (s : State) : Region → Nat
  | .key => Config.keySpaceBytes
  | .inBuf => s.cap
  | .outBuf => s.cap
  | .work => s.maxPt

/-- A store inside a space keeps the canonical form. -/
theorem State.MemOk.store {s : State} {r : Region} {a : Nat} (b : Byte) (h : s.MemOk)
    (ha : a < regionSize s r) : (s.store r a b).MemOk := by
  obtain ⟨h1, h2, h3, h4, h5, h6, h7, h8⟩ := h
  have hc : (s.store r a b).cap = s.cap := by simp [State.cap]
  unfold State.MemOk
  rw [hc, store_maxPt]
  cases r
  · exact ⟨Memory.wf_write a b h1, Memory.within_write (d := unlisted .key) b (by simpa [regionSize] using ha) h2, h3, h4, h5, h6, h7, h8⟩
  · exact ⟨h1, h2, Memory.wf_write a b h3, Memory.within_write (d := unlisted .inBuf) b (by simpa [regionSize] using ha) h4, h5, h6, h7, h8⟩
  · exact ⟨h1, h2, h3, h4, Memory.wf_write a b h5, Memory.within_write (d := unlisted .outBuf) b (by simpa [regionSize] using ha) h6, h7, h8⟩
  · exact ⟨h1, h2, h3, h4, h5, h6, Memory.wf_write a b h7, Memory.within_write (d := unlisted .work) b (by simpa [regionSize] using ha) h8⟩

end Sys2Proof.Machine
end

