-- ==== Sys2Proof/Laws/PerInstr.lean ====
section
/-! SUPPORT. The per-instruction family `WordForm`: the form of each command's CMD word (R71). -/

namespace Sys2Proof.Laws.WordForm

/-- The command is well-formed and its word has `ZERO` = 0 and `OP` the command's code. -/
def Statement (i : Instr) : Prop := i.wf = true ∧ cmdZero (encode i) = 0#28 ∧ cmdOp (encode i) = opOf i

theorem construct : Statement .construct := ⟨rfl, by decide, by decide⟩

theorem encrypt : Statement .encrypt := ⟨rfl, by decide, by decide⟩

theorem decrypt : Statement .decrypt := ⟨rfl, by decide, by decide⟩

end Sys2Proof.Laws.WordForm
end

