-- ==== Sys2Proof/Tests/Slice0.lean ====
section
/-! SUPPORT. Tests with expected values from spec/95_test_vectors.md and the rules' own examples, the smoke tests of
WellFormed, and for each statement with hypotheses a concrete state that meets them. -/

namespace Sys2Proof.Tests

open Sys2Proof Sys2Proof.Machine

/-! ## Small states -/

/-- `a, a+1, ..`, `n` bytes. -/
def run (a n : Nat) : List Byte := (List.range n).map fun i => BitVec.ofNat 8 (a + i)

/-- `ivA` of 95. -/
def ivA : Block := blockOfBytes (run 0xa0 16)

/-- "hello world". -/
def hello : List Byte :=
  [0x68#8, 0x65#8, 0x6c#8, 0x6c#8, 0x6f#8, 0x20#8, 0x77#8, 0x6f#8, 0x72#8, 0x6c#8, 0x64#8]

/-- `C_1` of T-ENC-1. -/
def helloC1 : Block :=
  ⟨⟨0x31#8, 0xa2#8, 0x64#8, 0x5a#8⟩, ⟨0xa2#8, 0x45#8, 0x4c#8, 0x26#8⟩,
   ⟨0x44#8, 0x4e#8, 0x8b#8, 0x62#8⟩, ⟨0x9c#8, 0x9d#8, 0x6d#8, 0x67#8⟩⟩

/-- A space that holds `bs` from offset 0. -/
def space (bs : List Byte) : Memory := Memory.writeRange none [] 0 bs

/-- The state after reset with `MAX_PT = 32`. -/
def base : State := { State.reset with maxPt := 32 }

/-- `base` in phase `p`, with the key `k128` in KEY. -/
def at128 (p : Phase) : State :=
  { base with phase := p, keylen := 16#32, klen := 16, key := Memory.writeRange (some 0#8) [] 0 (run 0 16) }

/-- The schedule of `k128`. -/
def rk128 : Vector Block 15 := loadSchedule (.replicate 15 .zero) (keyExpansion .aes128 (run 0 16))

/-- `base` keyed, in phase `p`, with the operand `bs` in IN and its length latched. The schedule is all zero: tests of
lengths and phases do not look at it. -/
def keyed (p : Phase) (bs : List Byte) : State :=
  { base with
    keyed := true, phase := p, inBuf := space bs, inlen := BitVec.ofNat 32 bs.length, len := bs.length }

/-- The next state, if there is one. -/
def next? : Result → Option State
  | .next s => some s
  | .fault _ => none
  | .refused _ => none

/-- The fault, if there is one. -/
def fault? : Result → Option Fault
  | .next _ => none
  | .fault f => some f
  | .refused _ => none

/-! ## WellFormed: each check refuses an ill-formed term -/

theorem test_maxPt_zero : maxPtOk 0 = false := by decide

theorem test_maxPt_not_multiple : maxPtOk 24 = false := by decide

theorem test_maxPt_too_big : maxPtOk (2 ^ 32 - 16) = false := by decide

theorem test_maxPt_bounds : maxPtOk 16 = true ∧ maxPtOk (2 ^ 32 - 32) = true := by decide

theorem test_key_lengths : keyFormatOk 17 = false ∧ keyFormatOk 5 = false ∧ keyFormatOk 0x110 = false ∧
    keyFormatOk 24 = true := by decide

theorem test_plaintext_format : plaintextFormatOk 32 33 = false ∧ plaintextFormatOk 32 32 = true := by decide

theorem test_blob_format : blobFormatOk 32 15 = false ∧ blobFormatOk 32 17 = false ∧ blobFormatOk 32 64 = false ∧
    blobFormatOk 32 48 = true := by decide

theorem test_line_forms : HostLine.wf 32 (.wr 6 0#32) = false ∧ HostLine.wf 32 (.rd 6) = false ∧
    HostLine.wf 32 (.wb .outBuf 0 0#8) = false ∧ HostLine.wf 32 (.wb .key 32 0#8) = false ∧
    HostLine.wf 32 (.rb .outBuf 48) = false ∧ HostLine.wf 32 (.loadRead 49) = false ∧
    HostLine.wf 32 .undefined = false ∧ HostLine.wf 32 (.wb .inBuf 47 0#8) = true := by decide

theorem test_instr_wf : Instr.wf .construct = true ∧ Instr.wf .encrypt = true ∧ Instr.wf .decrypt = true := by decide

/-! ## The CMD word: R72's table, and T-ILL -/

theorem test_table_words : decodeTableWord 32 0x00000001 = some .construct ∧
    decodeTableWord 32 0x00000002 = some .encrypt ∧ decodeTableWord 32 0x00000003 = some .decrypt := by decide

theorem test_illegal_words : ∀ v ∈ [0x00000000, 0x00000004, 0x0000000f, 0x00000010, 0x00000011, 0x00000012,
    0x00010001, 0x80000002, 0xffffffff], decodeTableWord 32 v = none := by decide

theorem test_placed_word_runs : ∀ i : Instr, i ∈ [Instr.construct, .encrypt, .decrypt] →
    (next? (step (State.reset.withFetchWord 32 (encode i).toNat))).map (·.phase.command) = some (some i) := by decide

/-- T-ILL: 0x12 in an unkeyed idle engine. -/
theorem test_illegal_command : (next? (writeCsr 0 0x12#32 base)).map (fun t => (statusWord t, errWord t)) =
    some (0x00000006#32, 7#32) := by decide

/-! ## The block cipher (95 section 2) -/

/-- T-GF. -/
theorem test_field : xtime 0x57#8 = 0xae#8 ∧ xtime 0xae#8 = 0x47#8 ∧ gmul 0x57#8 0x13#8 = 0xfe#8 ∧
    gmul 0x57#8 0x83#8 = 0xc1#8 ∧ gmul 0x53#8 0xca#8 = 0x01#8 := by decide

/-- T-RCON. -/
theorem test_rcon : (List.range 10).map (fun j => rcon (j + 1)) =
    [0x01#8, 0x02#8, 0x04#8, 0x08#8, 0x10#8, 0x20#8, 0x40#8, 0x80#8, 0x1b#8, 0x36#8] := by decide

/-- T-ROUND: `ShiftRows` and `InvShiftRows` of 00 .. 0f; two columns of `MixColumns`. -/
theorem test_rounds :
    blockBytes (shiftRows (blockOfBytes (run 0 16))) =
      [0x00#8, 0x05#8, 0x0a#8, 0x0f#8, 0x04#8, 0x09#8, 0x0e#8, 0x03#8, 0x08#8, 0x0d#8, 0x02#8, 0x07#8, 0x0c#8,
       0x01#8, 0x06#8, 0x0b#8] ∧
    blockBytes (invShiftRows (blockOfBytes (run 0 16))) =
      [0x00#8, 0x0d#8, 0x0a#8, 0x07#8, 0x04#8, 0x01#8, 0x0e#8, 0x0b#8, 0x08#8, 0x05#8, 0x02#8, 0x0f#8, 0x0c#8,
       0x09#8, 0x06#8, 0x03#8] ∧
    mixColumn ⟨0xdb#8, 0x13#8, 0x53#8, 0x45#8⟩ = ⟨0x8e#8, 0x4d#8, 0xa1#8, 0xbc#8⟩ ∧
    invMixColumn ⟨0xd5#8, 0xd5#8, 0xd7#8, 0xd6#8⟩ = ⟨0xd4#8, 0xd4#8, 0xd4#8, 0xd5#8⟩ := by decide +kernel

/-- T-KEYEXP, the last four words for `k192` and `k256`. -/
theorem test_key_expansion :
    (keyExpansion .aes192 (run 0 24))[12]? = some ⟨⟨0xa4#8, 0x97#8, 0x0a#8, 0x33#8⟩, ⟨0x1a#8, 0x78#8, 0xdc#8, 0x09#8⟩,
      ⟨0xc4#8, 0x18#8, 0xc2#8, 0x71#8⟩, ⟨0xe3#8, 0xa4#8, 0x1d#8, 0x5d#8⟩⟩ ∧
    (keyExpansion .aes256 (run 0 32))[14]? = some ⟨⟨0x24#8, 0xfc#8, 0x79#8, 0xcc#8⟩, ⟨0xbf#8, 0x09#8, 0x79#8, 0xe9#8⟩,
      ⟨0x37#8, 0x1a#8, 0xc2#8, 0x3c#8⟩, ⟨0x6d#8, 0x68#8, 0xde#8, 0x36#8⟩⟩ := by decide +kernel

/-! ## CONSTRUCT (95 section 3) -/

/-- T-CON-1: `RK[10]` of `k128`. -/
theorem test_construct_schedule : (next? (exec .construct (at128 .kExpand))).map
    (fun t => (statusWord t, roundKey t.rk 10)) = some (0x0000000a#32,
      ⟨⟨0x13#8, 0x11#8, 0x1d#8, 0x7f#8⟩, ⟨0xe3#8, 0x94#8, 0x4a#8, 0x17#8⟩, ⟨0xf3#8, 0x07#8, 0xa7#8, 0x8b#8⟩,
       ⟨0x4d#8, 0x2b#8, 0x30#8, 0xc5#8⟩⟩) := by decide +kernel

/-- T-CON-11 and T-CON-10: KEYLEN 0x00000110 unkeys a keyed engine. -/
theorem test_construct_unkeys : (next? (exec .construct { keyed .kInit [] with keylen := 0x110#32 })).map
    (fun t => (statusWord t, errWord t)) = some (0x00000006#32, 1#32) := by decide +kernel

/-! ## ENCRYPT (95 section 4) -/

/-- T-ENC-1: the padded WORK. -/
theorem test_encrypt_pads : (next? (exec .encrypt (keyed .ePad hello))).map
    (fun t => (t.loadRange .work 0 16).toOption) = some (some (hello ++ List.replicate 5 0#8)) := by decide +kernel

/-- T-ENC-1: `C_1`. -/
theorem test_encrypt_block : (next? (exec .encrypt
    { keyed .eChain hello with
      rk := rk128, work := space (hello ++ List.replicate 5 0#8), wlen := 16, nblk := 1, idx := 1,
      chain := ivA })).map
    (fun t => (t.loadBlock .outBuf 16).toOption) = some (some helloC1) := by decide +kernel

/-! ## DECRYPT (95 section 5) -/

/-- T-DEC-1: block 1 of WORK. -/
theorem test_decrypt_block : (next? (exec .decrypt
    { keyed .dChain (blockBytes ivA ++ blockBytes helloC1) with
      rk := rk128, wlen := 16, nblk := 1, idx := 1, chain := ivA })).map
    (fun t => (t.loadRange .work 0 16).toOption) = some (some (hello ++ List.replicate 5 0#8)) := by decide +kernel

/-- T-DEC-6: the result is cut at the embedded zero. -/
theorem test_decrypt_strips : (next? (exec .decrypt
    { keyed .dStrip [] with
      wlen := 16, work := space ([0x61#8, 0x62#8, 0x00#8, 0x63#8, 0x64#8] ++ List.replicate 11 0#8) })).map
    (fun t => (t.outlen, (t.loadRange .outBuf 0 2).toOption, t.load .outBuf 2)) =
    some (2#32, some [0x61#8, 0x62#8], none) := by decide +kernel

/-! ## Host accesses -/

/-- T-BUSY: the reads while ENCRYPT is in flight. -/
theorem test_busy_reads : statusWord (keyed .ePad hello) = 0x00000009#32 ∧ readCsr 5 (keyed .ePad hello) = 0#32 := by
  decide

/-- T-RST and R211: a reset at `E_GENIV` forgets the request; its number is not used again. -/
theorem test_reset_in_flight : (next? (perform .reset { keyed .eGenIv [] with rngPending := true, rngReqs := 1 })).map
    (fun t => (statusWord t, t.rngPending, t.rngReqs, t.answer)) = some (0#32, false, 1, none) := by decide +kernel

/-! ## Witnesses: concrete states and operands that meet the hypotheses of each statement -/

theorem witness_OtherCmdWordsRejectedByName : 16 ≤ (0x00000010#32).toNat ∧ ¬ 16 ≤ (0x0000000f#32).toNat ∧
    0x00000000#32 = 0#28 ++ 0#4 ∧ (0#4 ≠ 1#4 ∧ 0#4 ≠ 2#4 ∧ 0#4 ≠ 3#4) ∧
    0x00000004#32 = 0#28 ++ 4#4 ∧ (4#4 ≠ 1#4 ∧ 4#4 ≠ 2#4 ∧ 4#4 ≠ 3#4) := by decide

theorem witness_CmdWriteIssuesOrEndsIllegal : (at128 .eChain).phase ≠ .idle ∧ base.phase = .idle ∧
    (0#32 ≠ 1#32 ∧ 0#32 ≠ 2#32 ∧ 0#32 ≠ 3#32) ∧ (4#32 ≠ 1#32 ∧ 4#32 ≠ 2#32 ∧ 4#32 ≠ 3#32) := by decide

theorem witness_IdleEngineIssuesCommand : base.phase = .idle ∧ (keyed .idle hello).phase = .idle := by decide

theorem witness_StepRunsDecodedCommand :
    ({ base with inputs := [.host (.wr 0 2#32)] } : State).inputs = .host (.wr 0 2#32) :: [] ∧
    ({ base with inputs := [.host (.wr 0 2#32)] } : State).phase = .idle ∧ decode 2#32 = .ok .encrypt := by decide

theorem witness_EngineTurnAdvancesCommandInFlight :
    (base.inputs = [] ∧ base.phase = .idle) ∧
    ((keyed .dStrip []).inputs = [] ∧ (keyed .dStrip []).phase.command = some .decrypt) ∧
    ({ at128 .kInit with inputs := [.engine] } : State).inputs = .engine :: [] ∧
    ({ at128 .kInit with inputs := [.engine] } : State).phase.command = some .construct ∧
    ({ base with inputs := [.engine] } : State).inputs = .engine :: [] := by decide

theorem witness_BusyEngineIgnoresHostWrites : (keyed .ePad hello).phase ≠ .idle ∧ 10 < (keyed .ePad hello).cap ∧
    (keyed .ePad hello).load .inBuf 10 = some 0x64#8 ∧ 47 < (keyed .ePad hello).cap := by decide +kernel

theorem witness_LengthRegistersReadBack : base.phase = .idle := rfl

theorem witness_AbsentRegistersReadZero : 6 ≤ 6 ∧ (5 = 1 ∨ 5 = 2 ∨ 5 = 5) := by decide

theorem witness_HostByteAccesses : base.phase = .idle ∧ 47 < base.cap ∧ base.cap ≤ 48 ∧ 31 < 32 ∧ 32 ≤ 32 := by decide

theorem witness_OutReadsResultOrDraw :
    let s : State := { base with done := true, outlen := 16#32, outBuf := space (run 1 16) }
    s.phase = .idle ∧ s.done = true ∧ s.err = none ∧ 15 < s.outlen.toNat ∧ 15 < s.cap ∧
    s.load .outBuf 15 = some 16#8 ∧ s.outlen.toNat ≤ 16 ∧ 47 < s.cap := by decide +kernel

theorem witness_UndefinedAccessRefused :
    ({ base with inputs := [.host .undefined] } : State).inputs = .host .undefined :: [] := rfl

theorem witness_KeyBytesReadOnlyAtExpand : (at128 .kInit).phase ≠ .kExpand ∧ ∃ t, step (at128 .kInit) = .next t :=
  ⟨by decide, _, rfl⟩

theorem witness_LoadInFillsInputBuffer :
    let s : State := { base with inputs := (loadInLines hello).map .host ++ [] }
    s.phase = .idle ∧ hello.length ≤ s.cap ∧ s.maxPt + 16 < 2 ^ 32 ∧
    s.inputs = (loadInLines hello).map .host ++ [] := by decide

theorem witness_ConstructChecksKeyLength : (at128 .kInit).phase = .kInit ∧ (at128 .kInit).keylen.toNat = 16 ∧
    ({ at128 .kInit with keylen := 17#32 } : State).phase = .kInit ∧ (17 ≠ 16 ∧ 17 ≠ 24 ∧ 17 ≠ 32) ∧
    ({ at128 .kInit with keylen := 32#32 } : State).keylen.toNat = 32 := by decide

theorem witness_ConstructBindsSchedule : (at128 .kExpand).phase = .kExpand ∧
    (at128 .kExpand).klen = 4 * KeyVariant.aes128.words ∧
    ({ at128 .kExpand with klen := 32 } : State).klen = 4 * KeyVariant.aes256.words := by decide

theorem witness_ConstructFrame : ∃ t, exec .construct (at128 .kInit) = .next t := ⟨_, rfl⟩

theorem witness_ConstructWholeCommand :
    let s : State := { at128 .idle with inputs := [.host (.wr 0 0x00000001#32)] }
    s.phase = .idle ∧ s.inputs = [.host (.wr 0 0x00000001#32)] ∧ s.keylen.toNat = 4 * KeyVariant.aes128.words ∧
    (15 ≠ 16 ∧ 15 ≠ 24 ∧ 15 ≠ 32) ∧ ({ s with keylen := 15#32 } : State).keylen.toNat = 15 := by decide

theorem witness_EncryptChecksOperands : (keyed .eInit []).phase = .eInit ∧ (keyed .eInit []).keyed = true ∧
    (keyed .eInit []).inlen.toNat ≤ (keyed .eInit []).maxPt ∧
    (keyed .eInit (run 0 33)).maxPt < (keyed .eInit (run 0 33)).inlen.toNat ∧
    (keyed .eInit (run 0 32)).inlen.toNat ≤ (keyed .eInit (run 0 32)).maxPt ∧ (at128 .eInit).keyed = false := by decide

theorem witness_EncryptPadsWithZeros : (keyed .ePad hello).phase = .ePad ∧
    (∀ j, j < (keyed .ePad hello).len → ((keyed .ePad hello).load .inBuf j).isSome = true) ∧
    (keyed .ePad hello).len ≤ 11 ∧ 15 < ceil16 (keyed .ePad hello).len ∧ (keyed .ePad []).len = 0 := by decide +kernel

theorem witness_EncryptFaultsOnUnwrittenInput :
    let s : State := { keyed .ePad hello with len := 12 }
    s.phase = .ePad ∧ 11 < s.len ∧ s.load .inBuf 11 = none ∧
    (∀ j, j < 11 → (s.load .inBuf j).isSome = true) ∧
    fault? (exec .encrypt s) = some (.unwrittenInput 11) := by decide +kernel

theorem witness_EncryptTakesIvOrFails :
    let s : State := { keyed .eGenIv [] with rngPending := true, rngReqs := 1, rngScript := [.ok ivA] }
    s.phase = .eGenIv ∧ s.rngPending = true ∧ s.rngSilent = false ∧ s.answerTo (s.rngReqs - 1) = .ok ivA ∧
    ({ s with rngScript := [.fail] } : State).answerTo (s.rngReqs - 1) = .fail := by decide +kernel

theorem witness_SilentSourceKeepsEncryptWaiting :
    ({ keyed .eGenIv [] with rngSilent := true } : State).phase = .eGenIv ∧
    ({ keyed .eGenIv [] with rngSilent := true } : State).rngSilent = true := by decide

theorem witness_AnswerBelongsToItsRequest : (keyed .ePad []).phase = .ePad ∧ (keyed .ePad []).rngSilent = false ∧
    ∃ t, exec .encrypt (keyed .ePad []) = .next t := ⟨rfl, rfl, _, rfl⟩

theorem witness_EncryptChainsOneBlock :
    let s : State := { keyed .eChain hello with work := space (run 1 16), wlen := 16, nblk := 1, idx := 1 }
    s.phase = .eChain ∧ 1 ≤ s.idx ∧ s.idx ≤ s.nblk ∧
    s.loadBlock .work (16 * (s.idx - 1)) = .ok (blockOfBytes (run 1 16)) := by decide +kernel

theorem witness_EncryptEndsWithBlobLength :
    let s : State := { keyed .eChain [] with idx := 1 }
    s.phase = .eChain ∧ s.idx = s.nblk + 1 ∧ 16 + s.wlen < 2 ^ 32 := by decide

theorem witness_EncryptFrame : ∃ t, exec .encrypt (keyed .eInit hello) = .next t := ⟨_, rfl⟩

theorem witness_EncryptComputesEnc :
    let s : State := { keyed .idle hello with inputs := [.host (.wr 0 0x00000002#32)], rngScript := [.ok ivA] }
    s.phase = .idle ∧ s.inputs = [.host (.wr 0 0x00000002#32)] ∧ s.keyed = true ∧ maxPtOk s.maxPt = true ∧
    s.inlen.toNat ≤ s.maxPt ∧ s.loadRange .inBuf 0 s.inlen.toNat = .ok hello ∧ s.rngSilent = false ∧
    s.answerTo s.rngReqs = .ok ivA := by decide +kernel

theorem witness_EncryptErrorsWholeCommand :
    let s : State := { keyed .idle hello with inputs := [.host (.wr 0 0x00000002#32)], rngScript := [.fail] }
    s.phase = .idle ∧ s.inputs = [.host (.wr 0 0x00000002#32)] ∧ s.keyed = true ∧ s.inlen.toNat ≤ s.maxPt ∧
    (∀ j, j < s.inlen.toNat → (s.load .inBuf j).isSome = true) ∧ s.rngSilent = false ∧
    s.answerTo s.rngReqs = .fail ∧ ({ s with keyed := false } : State).keyed = false ∧
    ({ s with inlen := 33#32 } : State).maxPt < ({ s with inlen := 33#32 } : State).inlen.toNat := by decide +kernel

theorem witness_FreshIvsGiveDistinctBlobs :
    let s : State := { base with rngScript := [.ok ivA, .ok .zero] }
    s.IvFresh ∧ (0 : Nat) ≠ 1 ∧ s.rngScript[0]? = some (RngResp.ok ivA) ∧
    s.rngScript[1]? = some (RngResp.ok Block.zero) := by
  refine ⟨fun m n iv hm hn => ?_, by decide, rfl, rfl⟩
  match m, n, hm, hn with
  | 0, 0, _, _ => rfl
  | 1, 1, _, _ => rfl
  | 0, 1, hm, hn =>
    have h := hm.trans hn.symm
    revert h
    decide +kernel
  | 1, 0, hm, hn =>
    have h := hm.trans hn.symm
    revert h
    decide +kernel
  | m + 2, _, hm, _ => simp at hm
  | _, n + 2, _, hn => simp at hn

theorem witness_DecryptChecksOperands : (keyed .dInit (run 0 16)).phase = .dInit ∧
    (keyed .dInit (run 0 16)).keyed = true ∧ 16 ≤ (keyed .dInit (run 0 16)).inlen.toNat ∧
    (keyed .dInit (run 0 48)).inlen.toNat ≤ (keyed .dInit (run 0 48)).maxPt + 16 ∧
    (keyed .dInit (run 0 49)).maxPt + 16 < (keyed .dInit (run 0 49)).inlen.toNat ∧
    (keyed .dInit (run 0 15)).inlen.toNat < 16 ∧ (at128 .dInit).keyed = false := by decide

theorem witness_DecryptSplitsIv : (keyed .dSplitIv (run 0xa0 16)).phase = .dSplitIv ∧
    (keyed .dSplitIv (run 0xa0 16)).loadBlock .inBuf 0 = .ok ivA := by decide +kernel

theorem witness_DecryptValidatesAlignment : (keyed .dValidate (run 0 17)).phase = .dValidate ∧
    16 ≤ (keyed .dValidate (run 0 17)).len ∧ 16 ≤ (keyed .dValidate (run 0 16)).len ∧
    ((keyed .dValidate (run 0 17)).len - 16) % 16 ≠ 0 ∧ ((keyed .dValidate (run 0 16)).len - 16) % 16 = 0 ∧
    ((keyed .dValidate (run 0 48)).len - 16) % 16 = 0 := by decide

theorem witness_DecryptUnchainsOneBlock :
    let s : State := { keyed .dChain (run 0 32) with nblk := 1, idx := 1 }
    s.phase = .dChain ∧ 1 ≤ s.idx ∧ s.idx ≤ s.nblk ∧
    s.loadBlock .inBuf (16 * s.idx) = .ok (blockOfBytes (run 16 16)) ∧
    ({ s with idx := 2 } : State).nblk < ({ s with idx := 2 } : State).idx := by decide +kernel

theorem witness_DecryptStripsAtFirstZero :
    let s : State := { keyed .dStrip [] with wlen := 16, work := space (run 1 16) }
    s.phase = .dStrip ∧ s.wlen < 2 ^ 32 ∧ (∀ j, j < s.wlen → (s.load .work j).isSome = true) := by decide +kernel

theorem witness_DecryptFaultsOnUnwrittenInput :
    let s : State := { keyed .dChain (run 0 20) with nblk := 1, idx := 1 }
    s.load .inBuf 20 = none ∧ s.phase = .dChain ∧ 1 ≤ s.idx ∧ s.idx ≤ s.nblk ∧ 16 * s.idx ≤ 20 ∧
    20 < 16 * s.idx + 16 ∧ (∀ j, 16 * s.idx ≤ j → j < 20 → (s.load .inBuf j).isSome = true) ∧
    (keyed .dSplitIv []).phase = .dSplitIv ∧ (keyed .dSplitIv []).load .inBuf 0 = none := by
  refine ⟨by decide +kernel, rfl, by decide, by decide, by decide, by decide, fun j h1 h2 => ?_, rfl, rfl⟩
  have : j = 16 ∨ j = 17 ∨ j = 18 ∨ j = 19 := by
    have : (16 : Nat) * 1 ≤ j := h1
    omega
  rcases this with rfl | rfl | rfl | rfl <;> decide +kernel

theorem witness_DecryptFrame : ∃ t, exec .decrypt (keyed .dInit (run 0 16)) = .next t := ⟨_, rfl⟩

theorem witness_DecryptComputesDec :
    let s : State := { keyed .idle (run 0 16) with inputs := [.host (.wr 0 0x00000003#32)] }
    s.phase = .idle ∧ s.inputs = [.host (.wr 0 0x00000003#32)] ∧ s.keyed = true ∧ maxPtOk s.maxPt = true ∧
    s.inlen.toNat ≤ s.maxPt + 16 ∧ s.loadRange .inBuf 0 s.inlen.toNat = .ok (run 0 16) ∧
    decBlob s.nk s.rk (run 0 16) = .ok [] := by decide +kernel

theorem witness_DecryptErrorsWholeCommand :
    let s : State := { keyed .idle (run 0 17) with inputs := [.host (.wr 0 0x00000003#32)] }
    s.phase = .idle ∧ s.inputs = [.host (.wr 0 0x00000003#32)] ∧ s.keyed = true ∧ 16 ≤ s.inlen.toNat ∧
    s.inlen.toNat ≤ s.maxPt + 16 ∧ (s.inlen.toNat - 16) % 16 ≠ 0 ∧
    (∀ j, j < 16 → (s.load .inBuf j).isSome = true) ∧
    ({ s with inlen := 15#32 } : State).inlen.toNat < 16 ∧
    s.maxPt + 16 < ({ s with inlen := 49#32 } : State).inlen.toNat ∧
    ({ s with keyed := false } : State).keyed = false := by decide +kernel

theorem witness_AlteredBlockChangesTwoBlocks : (0 : Nat) < [ivA, helloC1].length ∧ (1 : Nat) < [ivA, helloC1].length ∧
    (Block.zero :: [ivA, helloC1])[0]? = some Block.zero ∧ [ivA, helloC1][0]? = some ivA ∧
    ((chainDecrypt .aes128 base.rk .zero [ivA, helloC1])[0]?).isSome = true ∧
    ((chainDecrypt .aes128 base.rk .zero [ivA, helloC1])[1]?).isSome = true := by decide +kernel

theorem witness_KeyScheduleRecurrence : (run 0 24).length = 4 * KeyVariant.aes192.words ∧
    KeyVariant.aes192.words ≤ 6 ∧ 51 < 4 * (KeyVariant.aes192.rounds + 1) ∧
    (∀ i ∈ [0, 5, 45, 50, 51, 48, 49], ((scheduleWords .aes192 (run 0 24))[i]?).isSome = true) := by decide +kernel

theorem witness_ResultStaysUntilNextCommand :
    let s : State := { base with done := true, inputs := [.host (.rd 1)] }
    s.phase = .idle ∧ s.inputs.head? ≠ some .reset ∧ (∀ v, s.inputs.head? ≠ some (.host (.wr 0 v))) ∧
    ∃ t, step s = .next t :=
  ⟨rfl, by decide, fun v h => absurd (Option.some.inj h) (by simp), _, rfl⟩

theorem witness_ResetEventClearsEngine :
    ({ keyed .eGenIv hello with inputs := [.reset] } : State).inputs = .reset :: [] := rfl

theorem witness_OnlyConstructChangesCipher :
    let s : State := keyed .eInit hello
    (∃ t, step s = .next t) ∧ s.phase ≠ .kInit ∧ s.phase ≠ .kExpand ∧ s.inputs.head? ≠ some .reset :=
  ⟨⟨_, rfl⟩, by decide, by decide, by decide⟩

theorem witness_OnlyHostWritesOperands :
    let s : State := { keyed .eInit hello with inputs := [.host (.wr 4 5#32)] }
    (∃ t, step s = .next t) ∧ s.inputs.head? ≠ some .reset ∧ s.phase ≠ .idle ∧
    (∃ t, step base = .next t) ∧ base.inputs.head? = none :=
  ⟨⟨_, rfl⟩, by decide, by decide, ⟨_, rfl⟩, rfl⟩

theorem witness_NoStepChangesMaxPt : ∃ t, step (keyed .eInit hello) = .next t := ⟨_, rfl⟩

theorem witness_StepKeepsMemoryCanonical : (keyed .eInit hello).canonical ∧ ∃ t, step (keyed .eInit hello) = .next t :=
  ⟨fun r => by cases r <;> decide +kernel, _, rfl⟩

/-- `base` meets the invariant. -/
theorem base_inv : base.Inv := by
  refine ⟨by decide, ⟨rfl, rfl, rfl, rfl, rfl, rfl, rfl, rfl⟩, fun h => absurd h (by decide), ?_, trivial⟩
  simp [State.StatusOk, base, State.reset]

theorem witness_StepKeepsInv : base.Inv ∧ ∃ t, step base = .next t := ⟨base_inv, _, rfl⟩

/-- A state in flight that meets the invariant: CONSTRUCT at `K_EXPAND`. -/
theorem witness_OnlyUnwrittenInputStopsARun :
    ({ base with phase := .kExpand, keylen := 16#32, klen := 16 } : State).Inv ∧
    ({ base with inputs := [.host .undefined] } : State).Inv := by
  refine ⟨⟨by decide, ⟨rfl, rfl, rfl, rfl, rfl, rfl, rfl, rfl⟩, fun h => absurd h (by decide), ?_, ?_⟩, base_inv⟩
  · simp [State.StatusOk, base, State.reset]
  · exact show _ ∧ _ ∧ _ from ⟨rfl, rfl, rfl⟩

theorem witness_EveryCommandEnds :
    let s : State := { base with phase := .kExpand, keylen := 16#32, klen := 16 }
    s.Inv ∧ s.inputs = [] ∧ s.sourceAnswers ∧ s.written .inBuf s.inlen.toNat :=
  ⟨witness_OnlyUnwrittenInputStopsARun.1, rfl, rfl, fun off h => absurd h (by simp [base, State.reset])⟩

end Sys2Proof.Tests
end

section
/-! What each step that can stop answers when it does not stop: its guard and its next state, for the commands'
phases whose step is a `Result` (spec/42 R132, spec/43 R142, R144, R145, spec/44 R162, R164, R165). -/

namespace Sys2Proof.Machine

theorem constructExpand_next {s t : State} (h : constructExpand s = .next t) :
    ∃ v, variantOf s.klen = some v ∧
      t = finish { s with nk := v, rk := loadSchedule s.rk (keyExpansion v (s.keyBytes s.klen)), keyed := true } := by
  unfold constructExpand at h
  split at h
  · cases h
  · next v hv => cases h; exact ⟨v, hv, rfl⟩

theorem encryptPad_next {s t : State} (h : encryptPad s = .next t) :
    ∃ bs, s.loadRange .inBuf 0 s.len = .ok bs ∧
      t = { s with
        work := Memory.writeRange (unlisted .work) s.work 0 (padded bs)
        wlen := ceil16 s.len
        nblk := ceil16 s.len / 16
        rngPending := true
        rngReqs := s.rngReqs + 1
        phase := .eGenIv } := by
  unfold encryptPad at h
  split at h
  · cases h
  · next bs hbs => cases h; exact ⟨bs, hbs, rfl⟩

theorem encryptBlockStep_next {s t : State} (h : encryptBlockStep s = .next t) :
    ∃ p, s.loadBlock .work (16 * (s.idx - 1)) = .ok p ∧
      t = { s with
        outBuf := Memory.writeBlock (unlisted .outBuf) s.outBuf (16 * s.idx) (encryptBlock s.nk s.rk (p.xor s.chain))
        chain := encryptBlock s.nk s.rk (p.xor s.chain)
        idx := s.idx + 1 } := by
  unfold encryptBlockStep at h
  split at h
  · cases h
  · next p hp => cases h; exact ⟨p, hp, rfl⟩

theorem encryptChain_next {s t : State} (h : encryptChain s = .next t) :
    s.idx ≠ 0 ∧ (s.idx ≤ s.nblk ∧ encryptBlockStep s = .next t ∨ s.idx = s.nblk + 1 ∧ t = encryptEnd s) := by
  unfold encryptChain at h
  split at h
  · cases h
  · next h0 =>
    refine ⟨h0, ?_⟩
    split at h
    · next hle => exact .inl ⟨hle, h⟩
    · split at h
      · next heq => cases h; exact .inr ⟨heq, rfl⟩
      · cases h

theorem decryptSplitIv_next {s t : State} (h : decryptSplitIv s = .next t) :
    ∃ iv, s.loadBlock .inBuf 0 = .ok iv ∧ t = { s with ivreg := iv, chain := iv, phase := .dValidate } := by
  unfold decryptSplitIv at h
  split at h
  · cases h
  · next iv hiv => cases h; exact ⟨iv, hiv, rfl⟩

theorem decryptBlockStep_next {s t : State} (h : decryptBlockStep s = .next t) :
    ∃ c, s.loadBlock .inBuf (16 * s.idx) = .ok c ∧
      t = { s with
        work := Memory.writeBlock (unlisted .work) s.work (16 * (s.idx - 1)) ((decryptBlock s.nk s.rk c).xor s.chain)
        chain := c
        idx := s.idx + 1 } := by
  unfold decryptBlockStep at h
  split at h
  · cases h
  · next c hc => cases h; exact ⟨c, hc, rfl⟩

theorem decryptChain_next {s t : State} (h : decryptChain s = .next t) :
    s.idx ≠ 0 ∧ (s.idx ≤ s.nblk ∧ decryptBlockStep s = .next t ∨ s.nblk < s.idx ∧ t = { s with phase := .dStrip }) := by
  unfold decryptChain at h
  split at h
  · cases h
  · next h0 =>
    refine ⟨h0, ?_⟩
    split at h
    · next hle => exact .inl ⟨hle, h⟩
    · next hgt => cases h; exact .inr ⟨Nat.lt_of_not_le hgt, rfl⟩

theorem decryptStrip_next {s t : State} (h : decryptStrip s = .next t) :
    ∃ bs, s.loadRange .work 0 s.wlen = .ok bs ∧
      t = finish { s with
        outBuf := Memory.writeRange (unlisted .outBuf) s.outBuf 0 (strip bs)
        outlen := BitVec.ofNat 32 (strip bs).length } := by
  unfold decryptStrip at h
  split at h
  · cases h
  · next bs hbs => cases h; exact ⟨bs, hbs, rfl⟩

end Sys2Proof.Machine
end

section
/-! `MAX_PT` is kept by every agent's step (spec/00 R7, log 1): the phases of the commands, the host's accesses, the
events. -/

namespace Sys2Proof.Machine

/-! ## The phases of the commands -/

@[simp] theorem constructInit_maxPt (s : State) : (constructInit s).maxPt = s.maxPt := by
  simp only [constructInit]
  split <;> rfl

@[simp] theorem encryptInit_maxPt (s : State) : (encryptInit s).maxPt = s.maxPt := by
  simp only [encryptInit]
  split
  · rfl
  · split <;> rfl

@[simp] theorem encryptGenIv_maxPt (s : State) : (encryptGenIv s).maxPt = s.maxPt := by
  unfold encryptGenIv
  split <;> rfl

@[simp] theorem decryptInit_maxPt (s : State) : (decryptInit s).maxPt = s.maxPt := by
  simp only [decryptInit]
  split
  · rfl
  · split
    · rfl
    · split <;> rfl

@[simp] theorem decryptValidate_maxPt (s : State) : (decryptValidate s).maxPt = s.maxPt := by
  unfold decryptValidate
  split <;> rfl

theorem encryptChain_keeps_maxPt {s t : State} (h : encryptChain s = .next t) : t.maxPt = s.maxPt := by
  obtain ⟨-, ⟨-, hb⟩ | ⟨-, rfl⟩⟩ := encryptChain_next h
  · obtain ⟨_, -, rfl⟩ := encryptBlockStep_next hb
    rfl
  · rfl

theorem decryptChain_keeps_maxPt {s t : State} (h : decryptChain s = .next t) : t.maxPt = s.maxPt := by
  obtain ⟨-, ⟨-, hb⟩ | ⟨-, rfl⟩⟩ := decryptChain_next h
  · obtain ⟨_, -, rfl⟩ := decryptBlockStep_next hb
    rfl
  · rfl

/-! ## The commands -/

theorem execConstruct_keeps_maxPt {s t : State} (h : execConstruct s = .next t) : t.maxPt = s.maxPt := by
  cases hp : s.phase <;> simp only [execConstruct, hp] at h
  case kExpand =>
    obtain ⟨_, -, rfl⟩ := constructExpand_next h
    rfl
  all_goals cases h; simp

theorem execEncrypt_keeps_maxPt {s t : State} (h : execEncrypt s = .next t) : t.maxPt = s.maxPt := by
  cases hp : s.phase <;> simp only [execEncrypt, hp] at h
  case ePad =>
    obtain ⟨_, -, rfl⟩ := encryptPad_next h
    rfl
  case eChain => exact encryptChain_keeps_maxPt h
  all_goals cases h; simp

theorem execDecrypt_keeps_maxPt {s t : State} (h : execDecrypt s = .next t) : t.maxPt = s.maxPt := by
  cases hp : s.phase <;> simp only [execDecrypt, hp] at h
  case dSplitIv =>
    obtain ⟨_, -, rfl⟩ := decryptSplitIv_next h
    rfl
  case dChain => exact decryptChain_keeps_maxPt h
  case dStrip =>
    obtain ⟨_, -, rfl⟩ := decryptStrip_next h
    rfl
  all_goals cases h; simp

theorem exec_keeps_maxPt {i : Instr} {s t : State} (h : exec i s = .next t) : t.maxPt = s.maxPt := by
  cases i with
  | construct => exact execConstruct_keeps_maxPt h
  | encrypt => exact execEncrypt_keeps_maxPt h
  | decrypt => exact execDecrypt_keeps_maxPt h

theorem engineTurn_keeps_maxPt {s t : State} (h : engineTurn s = .next t) : t.maxPt = s.maxPt := by
  unfold engineTurn at h
  split at h
  · cases h; rfl
  · exact exec_keeps_maxPt h

/-! ## The host's accesses -/

theorem commandWrite_keeps_maxPt {v : Reg32} {s t : State} (h : commandWrite v s = .next t) : t.maxPt = s.maxPt := by
  unfold commandWrite at h
  split at h
  · exact exec_keeps_maxPt h
  · cases h; simp

theorem writeCsr_keeps_maxPt {n : Nat} {v : Reg32} {s t : State} (h : writeCsr n v s = .next t) :
    t.maxPt = s.maxPt := by
  unfold writeCsr at h
  split at h
  · cases h; rfl
  · split at h
    case h_1 => exact commandWrite_keeps_maxPt h
    all_goals cases h; rfl

@[simp] theorem writeByte_maxPt (sp : Space) (off : Nat) (b : Byte) (s : State) :
    (writeByte sp off b s).maxPt = s.maxPt := by
  unfold writeByte
  split
  · rfl
  · cases sp
    case outBuf => rfl
    all_goals dsimp only; split <;> simp

@[simp] theorem orDraw_maxPt (s : State) (b : Option Byte) : (orDraw s b).2.maxPt = s.maxPt := by
  cases b <;> rfl

@[simp] theorem readByte_maxPt (sp : Space) (off : Nat) (s : State) : (readByte sp off s).2.maxPt = s.maxPt := by
  cases sp
  case key => rfl
  all_goals simp only [readByte]; split <;> simp

@[simp] theorem hostRead_maxPt (n : Nat) (s : State) : (hostRead n s).maxPt = s.maxPt := rfl

@[simp] theorem hostReadByte_maxPt (sp : Space) (off : Nat) (s : State) :
    (hostReadByte sp off s).maxPt = s.maxPt := by simp [hostReadByte]

theorem hostLine_keeps_maxPt {l : HostLine} {s t : State} (h : hostLine l s = .next t) : t.maxPt = s.maxPt := by
  cases l with
  | wr n v => exact writeCsr_keeps_maxPt h
  | wait =>
    simp only [hostLine] at h
    split at h <;> cases h <;> rfl
  | undefined => cases h
  | _ => cases h; simp

/-! ## One step -/

theorem perform_keeps_maxPt {e : Event} {s t : State} (h : perform e s = .next t) : t.maxPt = s.maxPt := by
  cases e with
  | engine => exact engineTurn_keeps_maxPt h
  | host l => exact hostLine_keeps_maxPt h
  | reset => cases h; simp
  | silence b => cases h; rfl

/-- Settles O55: the engine's turn and every event keep `MAX_PT`. -/
theorem noStepChangesMaxPt : Obligations.NoStepChangesMaxPt := by
  intro s t h
  unfold step at h
  split at h
  · exact engineTurn_keeps_maxPt h
  · next e es _ => exact perform_keeps_maxPt (s := { s with inputs := es }) h

end Sys2Proof.Machine
end

section
/-! What one step can do, said once: the moves of the engine with the random source (spec/42, 43, 44) and of the host
(spec/20 R50 to R64, spec/30 R80 to R83), each with its guard and its next state. The rules about every step are case
splits over these moves. -/

namespace Sys2Proof.Machine

/-! ## The engine's turn -/

/-- The moves of the engine from `s`: one constructor for each way in which a turn goes on. -/
inductive EngineMove (s : State) : State → Prop
  /-- R212: an idle engine holds its state. -/
  | hold (hp : s.phase = .idle) : EngineMove s s
  /-- R131. -/
  | keyRefused (hp : s.phase = .kInit) : EngineMove s
      (raise .invalidKeySize { s with klen := s.keylen.toNat, keyed := false, rk := .replicate 15 .zero })
  /-- R131. -/
  | keyAccepted (hp : s.phase = .kInit) (hv : (variantOf s.keylen.toNat).isSome = true) : EngineMove s
      { s with klen := s.keylen.toNat, keyed := false, rk := .replicate 15 .zero, phase := .kExpand }
  /-- R132. -/
  | expand (v : KeyVariant) (hp : s.phase = .kExpand) (hv : variantOf s.klen = some v) : EngineMove s
      (finish { s with nk := v, rk := loadSchedule s.rk (keyExpansion v (s.keyBytes s.klen)), keyed := true })
  /-- R141. -/
  | encRefused (k : ErrorKind) (hp : s.phase = .eInit) : EngineMove s (raise k { s with len := s.inlen.toNat })
  /-- R141. -/
  | encAccepted (hp : s.phase = .eInit) (hk : s.keyed = true) (hl : s.inlen.toNat ≤ s.maxPt) : EngineMove s
      { s with len := s.inlen.toNat, phase := .ePad }
  /-- R142. -/
  | pad (bs : List Byte) (hp : s.phase = .ePad) (hbs : s.loadRange .inBuf 0 s.len = .ok bs) : EngineMove s
      { s with
        work := Memory.writeRange (unlisted .work) s.work 0 (padded bs)
        wlen := ceil16 s.len
        nblk := ceil16 s.len / 16
        rngPending := true
        rngReqs := s.rngReqs + 1
        phase := .eGenIv }
  /-- R196 (d): no answer stands at the port. -/
  | waitIv (hp : s.phase = .eGenIv) : EngineMove s s
  /-- R143. -/
  | ivRefused (hp : s.phase = .eGenIv) : EngineMove s (raise .randomness { s with rngPending := false })
  /-- R143. -/
  | ivTaken (iv : Block) (hp : s.phase = .eGenIv) : EngineMove s
      { s with
        outBuf := Memory.writeBlock (unlisted .outBuf) s.outBuf 0 iv
        rngPending := false
        ivreg := iv
        chain := iv
        idx := 1
        phase := .eChain }
  /-- R144. -/
  | encBlock (c : Block) (hp : s.phase = .eChain) (hi : s.idx ≤ s.nblk) : EngineMove s
      { s with outBuf := Memory.writeBlock (unlisted .outBuf) s.outBuf (16 * s.idx) c, chain := c, idx := s.idx + 1 }
  /-- R145. -/
  | encEnd (hp : s.phase = .eChain) (hi : s.idx = s.nblk + 1) : EngineMove s (encryptEnd s)
  /-- R161. -/
  | decRefused (k : ErrorKind) (hp : s.phase = .dInit) : EngineMove s (raise k { s with len := s.inlen.toNat })
  /-- R161. -/
  | decAccepted (hp : s.phase = .dInit) (hk : s.keyed = true) (hl : 16 ≤ s.inlen.toNat)
      (hc : s.inlen.toNat ≤ s.cap) : EngineMove s
      { s with len := s.inlen.toNat, phase := .dSplitIv }
  /-- R162. -/
  | splitIv (iv : Block) (hp : s.phase = .dSplitIv) : EngineMove s
      { s with ivreg := iv, chain := iv, phase := .dValidate }
  /-- R163. -/
  | misaligned (hp : s.phase = .dValidate) : EngineMove s (raise .misalignedCiphertext s)
  /-- R163. -/
  | aligned (hp : s.phase = .dValidate) (hm : (s.len - 16) % 16 = 0) : EngineMove s
      { s with wlen := s.len - 16, nblk := (s.len - 16) / 16, idx := 1, phase := .dChain }
  /-- R164. -/
  | decBlock (c p : Block) (hp : s.phase = .dChain) (hi : s.idx ≤ s.nblk) : EngineMove s
      { s with
        work := Memory.writeBlock (unlisted .work) s.work (16 * (s.idx - 1)) p
        chain := c
        idx := s.idx + 1 }
  /-- R164. -/
  | decExit (hp : s.phase = .dChain) (hi : s.nblk < s.idx) : EngineMove s { s with phase := .dStrip }
  /-- R165. -/
  | stripped (bs : List Byte) (hp : s.phase = .dStrip) (hbs : s.loadRange .work 0 s.wlen = .ok bs) : EngineMove s
      (finish { s with
        outBuf := Memory.writeRange (unlisted .outBuf) s.outBuf 0 (strip bs)
        outlen := BitVec.ofNat 32 (strip bs).length })

theorem constructInit_move {s : State} (hp : s.phase = .kInit) : EngineMove s (constructInit s) := by
  unfold constructInit
  dsimp only
  split
  · exact .keyRefused hp
  · next v hv => exact .keyAccepted hp (by simp [hv])

theorem encryptInit_move {s : State} (hp : s.phase = .eInit) : EngineMove s (encryptInit s) := by
  unfold encryptInit
  dsimp only
  split
  · exact .encRefused _ hp
  · next hk =>
    split
    · exact .encRefused _ hp
    · next hl => exact .encAccepted hp (by simpa using hk) (Nat.le_of_not_lt hl)

theorem encryptGenIv_move {s : State} (hp : s.phase = .eGenIv) : EngineMove s (encryptGenIv s) := by
  unfold encryptGenIv
  split
  · exact .waitIv hp
  · exact .ivRefused hp
  · exact .ivTaken _ hp

theorem encryptChain_move {s t : State} (hp : s.phase = .eChain) (h : encryptChain s = .next t) : EngineMove s t := by
  obtain ⟨-, ⟨hi, hb⟩ | ⟨hi, rfl⟩⟩ := encryptChain_next h
  · obtain ⟨_, -, rfl⟩ := encryptBlockStep_next hb
    exact .encBlock _ hp hi
  · exact .encEnd hp hi

theorem decryptInit_move {s : State} (hp : s.phase = .dInit) : EngineMove s (decryptInit s) := by
  unfold decryptInit
  dsimp only
  split
  · exact .decRefused _ hp
  · next hk =>
    split
    · exact .decRefused _ hp
    · next hc =>
      split
      · exact .decRefused _ hp
      · next hl => exact .decAccepted hp (by simpa using hk) (Nat.le_of_not_lt hl) (Nat.le_of_not_lt hc)

theorem decryptValidate_move {s : State} (hp : s.phase = .dValidate) : EngineMove s (decryptValidate s) := by
  unfold decryptValidate
  split
  · exact .misaligned hp
  · next hm => exact .aligned hp (Decidable.not_not.mp hm)

theorem decryptChain_move {s t : State} (hp : s.phase = .dChain) (h : decryptChain s = .next t) : EngineMove s t := by
  obtain ⟨-, ⟨hi, hb⟩ | ⟨hi, rfl⟩⟩ := decryptChain_next h
  · obtain ⟨_, -, rfl⟩ := decryptBlockStep_next hb
    exact .decBlock _ _ hp hi
  · exact .decExit hp hi

/-- A turn of the engine that does not stop is one of its moves. -/
theorem engineTurn_move {s t : State} (h : engineTurn s = .next t) : EngineMove s t := by
  cases hp : s.phase <;>
    simp only [engineTurn, Phase.command, exec, execConstruct, execEncrypt, execDecrypt, hp] at h
  case idle => cases h; exact .hold hp
  case kInit => cases h; exact constructInit_move hp
  case kExpand =>
    obtain ⟨v, hv, rfl⟩ := constructExpand_next h
    exact .expand v hp hv
  case eInit => cases h; exact encryptInit_move hp
  case ePad =>
    obtain ⟨bs, hbs, rfl⟩ := encryptPad_next h
    exact .pad bs hp hbs
  case eGenIv => cases h; exact encryptGenIv_move hp
  case eChain => exact encryptChain_move hp h
  case dInit => cases h; exact decryptInit_move hp
  case dSplitIv =>
    obtain ⟨iv, -, rfl⟩ := decryptSplitIv_next h
    exact .splitIv iv hp
  case dValidate => cases h; exact decryptValidate_move hp
  case dChain => exact decryptChain_move hp h
  case dStrip =>
    obtain ⟨bs, hbs, rfl⟩ := decryptStrip_next h
    exact .stripped bs hp hbs

/-! ## The host's lines -/

/-- `p` is the first phase of a command (R83). -/
def Phase.isFirst : Phase → Bool
  | .kInit | .eInit | .dInit => true
  | .idle | .kExpand | .ePad | .eGenIv | .eChain | .dSplitIv | .dValidate | .dChain | .dStrip => false

/-- The moves of the host from `s` by a line: a line that writes nothing of the engine changes at most the count of
draws, the list of reads and the events to come; the writes need an idle engine (R64). -/
inductive HostMove (s : State) : HostLine → State → Prop
  | observe (l : HostLine) (d : Nat) (es : List Event) (rs : List ReadValue) :
      HostMove s l { s with draws := d, inputs := es, reads := rs }
  | issue (v : Reg32) (p : Phase) (hp : s.phase = .idle) (hf : p.isFirst = true) :
      HostMove s (.wr 0 v) (issue p s)
  | illegal (v : Reg32) (hp : s.phase = .idle) : HostMove s (.wr 0 v) (raise .illegalCommand (issueClear s))
  | keylen (v : Reg32) (hp : s.phase = .idle) : HostMove s (.wr 3 v) { s with keylen := v }
  | inlen (v : Reg32) (hp : s.phase = .idle) : HostMove s (.wr 4 v) { s with inlen := v }
  | store (sp : Space) (r : Region) (off : Nat) (b : Byte) (hp : s.phase = .idle) (hr : r = .key ∨ r = .inBuf)
      (ho : off < regionSize s r) : HostMove s (.wb sp off b) (s.store r off b)

/-- A line that leaves the state as it is. -/
theorem HostMove.none (s : State) (l : HostLine) : HostMove s l s := .observe l s.draws s.inputs s.reads

theorem busy_iff (s : State) : s.busy = true ↔ s.phase ≠ .idle := by simp [State.busy]

theorem not_busy_iff (s : State) : ¬ s.busy = true ↔ s.phase = .idle := by simp [State.busy]

/-- The meaning of each command in an idle engine is its issue (R83). -/
theorem exec_idle {s : State} (i : Instr) (hp : s.phase = .idle) :
    ∃ p : Phase, p.isFirst = true ∧ exec i s = .next (issue p s) := by
  cases i
  case construct => exact ⟨.kInit, rfl, by simp only [exec, execConstruct, hp]⟩
  case encrypt => exact ⟨.eInit, rfl, by simp only [exec, execEncrypt, hp]⟩
  case decrypt => exact ⟨.dInit, rfl, by simp only [exec, execDecrypt, hp]⟩

theorem commandWrite_move {v : Reg32} {s t : State} (hp : s.phase = .idle) (h : commandWrite v s = .next t) :
    HostMove s (.wr 0 v) t := by
  unfold commandWrite at h
  split at h
  · next i _ =>
    obtain ⟨p, hf, he⟩ := exec_idle i hp
    cases he.symm.trans h
    exact .issue v p hp hf
  · cases h; exact .illegal v hp

theorem writeCsr_move {n : Nat} {v : Reg32} {s t : State} (h : writeCsr n v s = .next t) : HostMove s (.wr n v) t := by
  unfold writeCsr at h
  split at h
  · cases h; exact .none s _
  · next hb =>
    have hp := (not_busy_iff s).mp hb
    split at h
    · exact commandWrite_move hp h
    · cases h; exact .keylen v hp
    · cases h; exact .inlen v hp
    · cases h; exact .none s _

theorem writeByte_move (sp : Space) (off : Nat) (b : Byte) (s : State) :
    HostMove s (.wb sp off b) (writeByte sp off b s) := by
  unfold writeByte
  split
  · exact .none s _
  · next hb =>
    have hp := (not_busy_iff s).mp hb
    cases sp
    case key =>
      dsimp only
      split
      · next ho => exact .store .key .key off b hp (.inl rfl) ho
      · exact .none s _
    case inBuf =>
      dsimp only
      split
      · next ho => exact .store .inBuf .inBuf off b hp (.inr rfl) ho
      · exact .none s _
    case outBuf => exact .none s _

/-- A read of a byte changes at most the count of draws (R60). -/
theorem readByte_state (sp : Space) (off : Nat) (s : State) : ∃ d, (readByte sp off s).2 = { s with draws := d } := by
  have hd (o : Option Byte) : ∃ d, (orDraw s o).2 = { s with draws := d } := by
    cases o
    case none => exact ⟨_, rfl⟩
    case some b => exact ⟨s.draws, rfl⟩
  cases sp
  case key => exact ⟨s.draws, rfl⟩
  all_goals
    simp only [readByte]
    split
    · exact hd _
    · exact ⟨s.draws, rfl⟩

theorem hostReadByte_move (sp : Space) (off : Nat) (s : State) :
    HostMove s (.rb sp off) (hostReadByte sp off s) := by
  obtain ⟨d, hd⟩ := readByte_state sp off s
  rw [hostReadByte, hd]
  exact .observe _ _ _ _

/-- A line that does not stop is one of the host's moves. -/
theorem hostLine_move {l : HostLine} {s t : State} (h : hostLine l s = .next t) : HostMove s l t := by
  cases l with
  | wr n v => exact writeCsr_move h
  | rd n => cases h; exact .observe _ _ _ _
  | wb sp off b => cases h; exact writeByte_move sp off b s
  | rb sp off => cases h; exact hostReadByte_move sp off s
  | wait =>
    simp only [hostLine] at h
    split at h <;> cases h <;> exact .observe _ _ _ _
  | readout => cases h; exact .observe _ _ _ _
  | copyout => cases h; exact .observe _ _ _ _
  | loadRead m => cases h; exact .observe _ _ _ _
  | undefined => cases h

/-! ## One step -/

/-- The state whose next event is taken. -/
def State.taken (s : State) : State := { s with inputs := s.inputs.tail }

/-- The moves of one step from `s`, which takes the next event (R65). -/
inductive StepMove (s : State) : State → Prop
  | engine {t : State} (h : EngineMove s.taken t) : StepMove s t
  | host {l : HostLine} {t : State} (hl : s.inputs.head? = some (.host l)) (h : HostMove s.taken l t) : StepMove s t
  | reset (hr : s.inputs.head? = some .reset) : StepMove s (resetEngine s.taken)
  | silence (b : Bool) : StepMove s { s.taken with rngSilent := b }

theorem step_eq_perform {s : State} : step s = perform (s.inputs.headD .engine) s.taken := by
  cases hi : s.inputs with
  | nil =>
    have hs : s.taken = s := by rw [State.taken, hi, List.tail_nil, ← hi]
    simp only [step, hi, hs, List.headD_nil, perform]
  | cons e es => simp only [step, hi, State.taken, List.headD_cons, List.tail_cons]

/-- A step that does not stop is one of the moves. -/
theorem step_move {s t : State} (h : step s = .next t) : StepMove s t := by
  rw [step_eq_perform] at h
  cases hi : s.inputs with
  | nil =>
    rw [hi] at h
    exact .engine (engineTurn_move h)
  | cons e es =>
    have hh : s.inputs.head? = some e := by rw [hi]; rfl
    rw [hi] at h
    cases e with
    | engine => exact .engine (engineTurn_move h)
    | host l => exact .host hh (hostLine_move h)
    | reset => cases h; exact .reset hh
    | silence b => cases h; exact .silence b

end Sys2Proof.Machine
end

section
/-! The status registers and the rules that every step keeps (spec/10 R21 to R23, R32 to R37, spec/20 R51, R52): each is
a case split over the moves, or an equation of the register. -/

namespace Sys2Proof.Machine

/-! ## Status registers -/

theorem statusWord_getLsbD_zero (s : State) : (statusWord s).getLsbD 0 = s.busy := by
  simp only [statusWord, BitVec.getLsbD_append]
  simp

theorem statusWord_getLsbD_one (s : State) : (statusWord s).getLsbD 1 = s.done := by
  simp only [statusWord, BitVec.getLsbD_append]
  simp

theorem statusWord_getLsbD_two (s : State) : (statusWord s).getLsbD 2 = s.errorFlag := by
  simp only [statusWord, BitVec.getLsbD_append]
  simp

theorem statusWord_getLsbD_three (s : State) : (statusWord s).getLsbD 3 = s.keyed := by
  simp only [statusWord, BitVec.getLsbD_append]
  simp

theorem statusWord_toNat_lt (s : State) : (statusWord s).toNat < 2 ^ 4 := by
  unfold statusWord
  generalize s.errorFlag = e
  generalize s.busy = b
  cases s.keyed <;> cases e <;> cases s.done <;> cases b <;> decide

/-- The reserved bits of STATUS (R32). -/
theorem statusWord_getLsbD_of_le {j : Nat} (s : State) (h : 4 ≤ j) : (statusWord s).getLsbD j = false :=
  Nat.testBit_lt_two_pow ((statusWord_toNat_lt s).trans_le (Nat.pow_le_pow_right (by decide) h))

theorem errWord_eq_zero_iff (s : State) : errWord s = 0#32 ↔ s.err = none := by
  unfold errWord
  cases s.err with
  | none => decide
  | some k => cases k <;> decide

theorem errorFlag_iff (s : State) : s.errorFlag = true ↔ s.done = true ∧ errWord s ≠ 0#32 := by
  rw [State.errorFlag, Bool.and_eq_true, Option.isSome_iff_ne_none, Ne, Ne, errWord_eq_zero_iff]

theorem errWord_toNat_lt (s : State) : (errWord s).toNat < 8 := by
  unfold errWord
  cases s.err with
  | none => decide
  | some k => cases k <;> decide

/-- Settles O11: each flag is one bit of the word, and the bits above them are 0. -/
theorem statusShowsTheFlags : Obligations.StatusShowsTheFlags := by
  intro s
  rw [statusWord_getLsbD_zero, statusWord_getLsbD_one, statusWord_getLsbD_two, statusWord_getLsbD_three]
  exact ⟨busy_iff s, Iff.rfl, errorFlag_iff s, Iff.rfl, fun j hj => statusWord_getLsbD_of_le s hj⟩

/-! ## Register writes in an idle engine -/

/-- A register other than CMD, KEYLEN and INLEN ignores writes (R37). -/
theorem writeCsr_ignored {n : Nat} (v : Reg32) (s : State) (h0 : n ≠ 0) (h3 : n ≠ 3) (h4 : n ≠ 4) :
    writeCsr n v s = .next s := by
  unfold writeCsr
  split
  · rfl
  · split
    · exact absurd rfl h0
    · exact absurd rfl h3
    · exact absurd rfl h4
    · rfl

theorem writeCsr_keylen {s : State} (v : Reg32) (hp : s.phase = .idle) :
    writeCsr 3 v s = .next { s with keylen := v } := if_neg ((not_busy_iff s).mpr hp)

theorem writeCsr_inlen {s : State} (v : Reg32) (hp : s.phase = .idle) :
    writeCsr 4 v s = .next { s with inlen := v } := if_neg ((not_busy_iff s).mpr hp)

/-- Settles O9: the write of each length register, and its read. -/
theorem lengthRegistersReadBack : Obligations.LengthRegistersReadBack :=
  fun _ v hp => ⟨⟨_, writeCsr_keylen v hp, rfl, rfl⟩, ⟨_, writeCsr_inlen v hp, rfl, rfl⟩⟩

theorem readCsr_absent {n : Nat} (s : State) (hn : 6 ≤ n) : readCsr n s = 0#32 := by
  obtain ⟨k, rfl⟩ := Nat.exists_eq_add_of_le' hn
  rfl

/-- Settles O10: writes to the registers that ignore them, and the reads that give zeros. -/
theorem absentRegistersReadZero : Obligations.AbsentRegistersReadZero := by
  intro s v
  refine ⟨fun n hn => ⟨writeCsr_ignored v s (by omega) (by omega) (by omega), readCsr_absent s hn⟩,
    fun n hn => writeCsr_ignored v s (by omega) (by omega) (by omega), rfl, statusWord_toNat_lt s, ?_⟩
  simp only [readCsr]
  split
  · decide
  · exact errWord_toNat_lt s

/-! ## What the moves leave unchanged -/

/-- Outside CONSTRUCT the engine keeps the cipher state. -/
theorem EngineMove.keeps_cipher {s t : State} (h : EngineMove s t) (hi : s.phase ≠ .kInit)
    (he : s.phase ≠ .kExpand) :
    t.keyed = s.keyed ∧ t.nk = s.nk ∧ t.rk = s.rk := by
  cases h
  case keyRefused hp => exact absurd hp hi
  case keyAccepted hp _ => exact absurd hp hi
  case expand hp _ => exact absurd hp he
  all_goals exact ⟨rfl, rfl, rfl⟩

theorem HostMove.keeps_cipher {s t : State} {l : HostLine} (h : HostMove s l t) :
    t.keyed = s.keyed ∧ t.nk = s.nk ∧ t.rk = s.rk := by
  cases h
  case store => simp
  all_goals exact ⟨rfl, rfl, rfl⟩

/-- Settles O53: neither the engine outside CONSTRUCT nor the host writes the cipher state. -/
theorem onlyConstructChangesCipher : Obligations.OnlyConstructChangesCipher := by
  intro s t h hi he hr
  cases step_move h with
  | engine hm => exact hm.keeps_cipher hi he
  | host _ hm => exact hm.keeps_cipher
  | reset hh => exact absurd hh hr
  | silence b => exact ⟨rfl, rfl, rfl⟩

/-- The engine writes no operand. -/
theorem EngineMove.keeps_operands {s t : State} (h : EngineMove s t) :
    t.key = s.key ∧ t.inBuf = s.inBuf ∧ t.keylen = s.keylen ∧ t.inlen = s.inlen := by
  cases h <;> exact ⟨rfl, rfl, rfl, rfl⟩

/-- The host writes an operand only by a register or a byte write in an idle engine. -/
theorem HostMove.keeps_operands {s t : State} {l : HostLine} (h : HostMove s l t)
    (hb : s.phase ≠ .idle ∨ (∀ n v, l ≠ .wr n v) ∧ ∀ sp off b, l ≠ .wb sp off b) :
    t.key = s.key ∧ t.inBuf = s.inBuf ∧ t.keylen = s.keylen ∧ t.inlen = s.inlen := by
  cases h
  case keylen v hp => exact hb.elim (absurd hp) fun hl => absurd rfl (hl.1 3 v)
  case inlen v hp => exact hb.elim (absurd hp) fun hl => absurd rfl (hl.1 4 v)
  case store sp r off b hp _ _ => exact hb.elim (absurd hp) fun hl => absurd rfl (hl.2 sp off b)
  all_goals exact ⟨rfl, rfl, rfl, rfl⟩

/-- Settles O54: of the moves, only the host's writes in an idle engine and the reset touch an operand. -/
theorem onlyHostWritesOperands : Obligations.OnlyHostWritesOperands := by
  intro s t h hr hb
  cases step_move h with
  | engine hm => exact hm.keeps_operands
  | @host l _ hl hm =>
    refine hm.keeps_operands (hb.imp_right fun ⟨hw, hwb⟩ => ⟨?_, ?_⟩)
    · rintro n v rfl
      exact hw n v hl
    · rintro sp off b rfl
      exact hwb sp off b hl
  | reset hh => exact absurd hh hr
  | silence b => exact ⟨rfl, rfl, rfl, rfl⟩

end Sys2Proof.Machine
end

section
/-! The bytes of KEY are read at `K_EXPAND` alone (spec/10 R29, spec/20 R51): every other step commutes with replacing
the cells of KEY. -/

namespace Sys2Proof.Machine

/-- The state with other cells in KEY. -/
def State.withKey (m : Memory) (s : State) : State := { s with key := m }

/-- The outcome with other cells in KEY. -/
def withKeyNext (m : Memory) : Result → Result
  | .next t => .next (t.withKey m)
  | .fault f => .fault f
  | .refused r => .refused r

/-! ## The phases of the commands -/

theorem constructInit_withKey (m : Memory) (s : State) :
    constructInit (s.withKey m) = (constructInit s).withKey m := by
  simp only [constructInit, State.withKey]
  split <;> rfl

theorem encryptInit_withKey (m : Memory) (s : State) : encryptInit (s.withKey m) = (encryptInit s).withKey m := by
  simp only [encryptInit, apply_ite (State.withKey m)]
  rfl

theorem encryptPad_withKey (m : Memory) (s : State) : encryptPad (s.withKey m) = withKeyNext m (encryptPad s) := by
  have hl : (s.withKey m).loadRange .inBuf 0 (s.withKey m).len = s.loadRange .inBuf 0 s.len := rfl
  unfold encryptPad
  rw [hl]
  split <;> rfl

theorem encryptGenIv_withKey (m : Memory) (s : State) : encryptGenIv (s.withKey m) = (encryptGenIv s).withKey m := by
  have ha : (s.withKey m).answer = s.answer := rfl
  unfold encryptGenIv
  rw [ha]
  split
  · rfl
  · rfl
  · simp only [State.withKey]

theorem encryptBlockStep_withKey (m : Memory) (s : State) :
    encryptBlockStep (s.withKey m) = withKeyNext m (encryptBlockStep s) := by
  have hl : (s.withKey m).loadBlock .work (16 * ((s.withKey m).idx - 1)) = s.loadBlock .work (16 * (s.idx - 1)) := rfl
  unfold encryptBlockStep
  rw [hl]
  split <;> simp only [State.withKey, withKeyNext]

theorem encryptChain_withKey (m : Memory) (s : State) :
    encryptChain (s.withKey m) = withKeyNext m (encryptChain s) := by
  unfold encryptChain
  rw [encryptBlockStep_withKey, apply_ite (withKeyNext m), apply_ite (withKeyNext m), apply_ite (withKeyNext m)]
  rfl

theorem decryptInit_withKey (m : Memory) (s : State) : decryptInit (s.withKey m) = (decryptInit s).withKey m := by
  simp only [decryptInit, apply_ite (State.withKey m)]
  rfl

theorem decryptSplitIv_withKey (m : Memory) (s : State) :
    decryptSplitIv (s.withKey m) = withKeyNext m (decryptSplitIv s) := by
  have hl : (s.withKey m).loadBlock .inBuf 0 = s.loadBlock .inBuf 0 := rfl
  unfold decryptSplitIv
  rw [hl]
  split <;> rfl

theorem decryptValidate_withKey (m : Memory) (s : State) :
    decryptValidate (s.withKey m) = (decryptValidate s).withKey m := by
  simp only [decryptValidate, apply_ite (State.withKey m)]
  rfl

theorem decryptBlockStep_withKey (m : Memory) (s : State) :
    decryptBlockStep (s.withKey m) = withKeyNext m (decryptBlockStep s) := by
  have hl : (s.withKey m).loadBlock .inBuf (16 * (s.withKey m).idx) = s.loadBlock .inBuf (16 * s.idx) := rfl
  unfold decryptBlockStep
  rw [hl]
  split <;> simp only [State.withKey, withKeyNext]

theorem decryptChain_withKey (m : Memory) (s : State) :
    decryptChain (s.withKey m) = withKeyNext m (decryptChain s) := by
  unfold decryptChain
  rw [decryptBlockStep_withKey, apply_ite (withKeyNext m), apply_ite (withKeyNext m)]
  rfl

theorem decryptStrip_withKey (m : Memory) (s : State) :
    decryptStrip (s.withKey m) = withKeyNext m (decryptStrip s) := by
  have hl : (s.withKey m).loadRange .work 0 (s.withKey m).wlen = s.loadRange .work 0 s.wlen := rfl
  unfold decryptStrip
  rw [hl]
  split <;> rfl

/-! ## The agents -/

theorem exec_withKey (i : Instr) (m : Memory) {s : State} (he : s.phase ≠ .kExpand) :
    exec i (s.withKey m) = withKeyNext m (exec i s) := by
  have hm : (s.withKey m).phase = s.phase := rfl
  cases i <;> cases hp : s.phase <;> simp only [exec, execConstruct, execEncrypt, execDecrypt, hm, hp]
  case construct.kInit => rw [constructInit_withKey]; rfl
  case construct.kExpand => exact absurd hp he
  case encrypt.eInit => rw [encryptInit_withKey]; rfl
  case encrypt.ePad => exact encryptPad_withKey m s
  case encrypt.eGenIv => rw [encryptGenIv_withKey]; rfl
  case encrypt.eChain => exact encryptChain_withKey m s
  case decrypt.dInit => rw [decryptInit_withKey]; rfl
  case decrypt.dSplitIv => exact decryptSplitIv_withKey m s
  case decrypt.dValidate => rw [decryptValidate_withKey]; rfl
  case decrypt.dChain => exact decryptChain_withKey m s
  case decrypt.dStrip => exact decryptStrip_withKey m s
  all_goals rfl

theorem engineTurn_withKey (m : Memory) {s : State} (he : s.phase ≠ .kExpand) :
    engineTurn (s.withKey m) = withKeyNext m (engineTurn s) := by
  have hm : (s.withKey m).phase = s.phase := rfl
  unfold engineTurn
  rw [hm]
  split
  · rfl
  · exact exec_withKey _ m he

theorem commandWrite_withKey (v : Reg32) (m : Memory) {s : State} (he : s.phase ≠ .kExpand) :
    commandWrite v (s.withKey m) = withKeyNext m (commandWrite v s) := by
  unfold commandWrite
  split
  · exact exec_withKey _ m he
  · rfl

theorem writeCsr_withKey (n : Nat) (v : Reg32) (m : Memory) {s : State} (he : s.phase ≠ .kExpand) :
    writeCsr n v (s.withKey m) = withKeyNext m (writeCsr n v s) := by
  have hb : (s.withKey m).busy = s.busy := rfl
  unfold writeCsr
  rw [hb]
  split
  · rfl
  · split
    · exact commandWrite_withKey v m he
    all_goals rfl

theorem writeByte_withKey (sp : Space) (off : Nat) (b : Byte) (m : Memory) (s : State) :
    ∃ m', writeByte sp off b (s.withKey m) = (writeByte sp off b s).withKey m' := by
  have hb : (s.withKey m).busy = s.busy := rfl
  have hc : (s.withKey m).cap = s.cap := rfl
  unfold writeByte
  rw [hb, hc]
  split
  · exact ⟨m, rfl⟩
  · cases sp
    case key =>
      dsimp only
      split
      · exact ⟨Memory.write (unlisted .key) m off b, rfl⟩
      · exact ⟨m, rfl⟩
    case inBuf =>
      dsimp only
      split <;> exact ⟨m, rfl⟩
    case outBuf => exact ⟨m, rfl⟩

theorem orDraw_withKey (m : Memory) (s : State) (o : Option Byte) :
    orDraw (s.withKey m) o = ((orDraw s o).1, (orDraw s o).2.withKey m) := by
  cases o <;> rfl

theorem readByte_withKey (sp : Space) (off : Nat) (m : Memory) (s : State) :
    readByte sp off (s.withKey m) = ((readByte sp off s).1, (readByte sp off s).2.withKey m) := by
  have hc : (s.withKey m).cap = s.cap := rfl
  cases sp
  case key => rfl
  all_goals
    simp only [readByte, hc]
    split
    · exact orDraw_withKey m s _
    · rfl

theorem hostReadByte_withKey (sp : Space) (off : Nat) (m : Memory) (s : State) :
    hostReadByte sp off (s.withKey m) = (hostReadByte sp off s).withKey m := by
  rw [hostReadByte, readByte_withKey]
  rfl

/-- A line commutes with replacing KEY, but for the cells of KEY that it writes itself. -/
theorem hostLine_withKey (l : HostLine) (m : Memory) {s : State} (he : s.phase ≠ .kExpand) :
    ∃ m', hostLine l (s.withKey m) = withKeyNext m' (hostLine l s) := by
  cases l with
  | wr n v => exact ⟨m, writeCsr_withKey n v m he⟩
  | wb sp off b =>
    obtain ⟨m', h⟩ := writeByte_withKey sp off b m s
    exact ⟨m', congrArg Host.Outcome.next h⟩
  | rb sp off => exact ⟨m, congrArg Host.Outcome.next (hostReadByte_withKey sp off m s)⟩
  | wait =>
    have hd : (s.withKey m).done = s.done := rfl
    refine ⟨m, ?_⟩
    simp only [hostLine, hd]
    split <;> rfl
  | _ => exact ⟨m, rfl⟩

theorem perform_withKey (e : Event) (m : Memory) {s : State} (he : s.phase ≠ .kExpand) :
    ∃ m', perform e (s.withKey m) = withKeyNext m' (perform e s) := by
  cases e with
  | engine => exact ⟨m, engineTurn_withKey m he⟩
  | host l => exact hostLine_withKey l m he
  | reset => exact ⟨[], rfl⟩
  | silence b => exact ⟨m, rfl⟩

/-- Settles O16: every event commutes with replacing KEY outside `K_EXPAND`. -/
theorem keyBytesReadOnlyAtExpand : Obligations.KeyBytesReadOnlyAtExpand := by
  intro s t m he h
  rw [step_eq_perform] at h
  obtain ⟨m', hm⟩ := perform_withKey (s.inputs.headD .engine) m (s := s.taken) he
  refine ⟨m', ?_⟩
  calc step { s with key := m }
      = perform (s.inputs.headD .engine) (s.taken.withKey m) := step_eq_perform
    _ = withKeyNext m' (.next t) := by rw [hm, h]
    _ = .next { t with key := m' } := rfl

end Sys2Proof.Machine
end

section
/-! The invariant of the machine (spec/10 R42 and the ranges of R25 to R28): it holds after reset, and every move of the
engine, of the host and of the environment keeps it. -/

namespace Sys2Proof.Machine

/-! ## The key schedule fits in the round-key file -/

theorem keyWords_length (n : Nat) (bs : List Byte) : (keyWords n bs).length = n := by
  induction n generalizing bs with
  | zero => rfl
  | succ n ih => simp [keyWords, ih]

theorem expandWords_length (nk n i : Nat) (ws : List Word) :
    (expandWords nk n i ws).length = n + ws.length := by
  induction n generalizing i ws with
  | zero => simp [expandWords]
  | succ n ih =>
    rw [expandWords, ih, List.length_cons]
    omega

theorem scheduleWords_length (v : KeyVariant) (k : List Byte) : (scheduleWords v k).length = 4 * (v.rounds + 1) := by
  rw [scheduleWords, List.length_reverse, expandWords_length, List.length_reverse, keyWords_length]
  cases v <;> rfl

theorem groupWords_length (n : Nat) (ws : List Word) (h : ws.length = 4 * n) : (groupWords ws).length = n := by
  induction n generalizing ws with
  | zero => rw [List.eq_nil_of_length_eq_zero h]; rfl
  | succ n ih =>
    match ws with
    | a :: b :: c :: d :: ws => rw [groupWords, List.length_cons, ih ws (by simpa [Nat.mul_succ] using h)]
    | [] | [_] | [_, _] | [_, _, _] =>
      simp only [List.length_nil, List.length_cons] at h
      omega

@[simp] theorem keyExpansion_length (v : KeyVariant) (k : List Byte) :
    (keyExpansion v k).length = v.rounds + 1 := groupWords_length _ _ (scheduleWords_length v k)

theorem rounds_lt (v : KeyVariant) : v.rounds < 15 := by cases v <;> decide

/-- The round keys loaded for a variant are the ones it then uses (R23, R132). -/
theorem schedule_loadSchedule {v : KeyVariant} (rk : Vector Block 15) {ks : List Block}
    (h : ks.length = v.rounds + 1) : schedule v (loadSchedule rk ks) = ks := by
  have hr := rounds_lt v
  apply List.ext_getElem
  · simp [schedule, h]
    omega
  · intro j hj hk
    simp [schedule, loadSchedule, hk]

/-! ## The parts of the invariant -/

theorem maxPtOk_iff (n : Nat) : maxPtOk n = true ↔ n % 16 = 0 ∧ 16 ≤ n ∧ n + 16 < 2 ^ 32 := by
  simp [maxPtOk, and_assoc]

theorem State.MemOk.set_outBuf {s : State} {m : Memory} (h : s.MemOk) (hw : Memory.wf none m = true)
    (hi : Memory.within s.cap m = true) : State.MemOk { s with outBuf := m } := by
  obtain ⟨h1, h2, h3, h4, -, -, h7, h8⟩ := h
  exact ⟨h1, h2, h3, h4, hw, hi, h7, h8⟩

theorem State.MemOk.set_work {s : State} {m : Memory} (h : s.MemOk) (hw : Memory.wf none m = true)
    (hi : Memory.within s.maxPt m = true) : State.MemOk { s with work := m } := by
  obtain ⟨h1, h2, h3, h4, h5, h6, -, -⟩ := h
  exact ⟨h1, h2, h3, h4, h5, h6, hw, hi⟩

theorem State.MemOk.clear_outBuf {s : State} (h : s.MemOk) : State.MemOk { s with outBuf := [] } :=
  h.set_outBuf rfl rfl

theorem State.MemOk.outBuf_writeRange {s : State} {a : Nat} {bs : List Byte} (h : s.MemOk)
    (ha : a + bs.length ≤ s.cap) : State.MemOk { s with outBuf := Memory.writeRange none s.outBuf a bs } := by
  have ⟨_, _, _, _, hw, hi, _, _⟩ := h
  exact h.set_outBuf (Memory.wf_writeRange a bs hw) (Memory.within_writeRange bs ha hi)

theorem State.MemOk.work_writeRange {s : State} {a : Nat} {bs : List Byte} (h : s.MemOk)
    (ha : a + bs.length ≤ s.maxPt) : State.MemOk { s with work := Memory.writeRange none s.work a bs } := by
  have ⟨_, _, _, _, _, _, hw, hi⟩ := h
  exact h.set_work (Memory.wf_writeRange a bs hw) (Memory.within_writeRange bs ha hi)

/-- While a command is in flight the status registers show nothing (R32, R64). -/
theorem State.StatusOk.of_busy {s : State} (hp : s.phase ≠ .idle) (hd : s.done = false) (he : s.err = none)
    (ho : s.outlen = 0#32) (hr : s.rngPending = true ↔ s.phase = .eGenIv) : s.StatusOk := by
  simp [State.StatusOk, hp, hd, he, ho, hr]

theorem State.StatusOk.pending_iff {s : State} (h : s.StatusOk) : s.rngPending = true ↔ s.phase = .eGenIv := by
  obtain ⟨-, -, -, -, -, hr⟩ := h
  exact hr

theorem State.StatusOk.not_pending {s : State} (h : s.StatusOk) (hp : s.phase ≠ .eGenIv) : s.rngPending = false := by
  simpa [hp] using h.pending_iff

theorem State.StatusOk.done_of_busy {s : State} (h : s.StatusOk) (hp : s.phase ≠ .idle) : s.done = false := by
  obtain ⟨hd, -⟩ := h
  simpa using mt hd hp

theorem State.StatusOk.err_of_busy {s : State} (h : s.StatusOk) (hp : s.phase ≠ .idle) : s.err = none := by
  obtain ⟨-, hb, -⟩ := h
  exact (hb hp).1

theorem State.StatusOk.outlen_of_busy {s : State} (h : s.StatusOk) (hp : s.phase ≠ .idle) : s.outlen = 0#32 := by
  obtain ⟨-, hb, -⟩ := h
  exact (hb hp).2

/-- A move from one phase of a command to another that leaves the status registers alone. -/
theorem State.StatusOk.advance {s t : State} (h : s.StatusOk) (hs : s.phase ≠ .idle) (ht : t.phase ≠ .idle)
    (hr : t.rngPending = true ↔ t.phase = .eGenIv) (hd : t.done = s.done := by rfl) (he : t.err = s.err := by rfl)
    (ho : t.outlen = s.outlen := by rfl) : t.StatusOk :=
  .of_busy ht (hd.trans (h.done_of_busy hs)) (he.trans (h.err_of_busy hs)) (ho.trans (h.outlen_of_busy hs)) hr

/-- R190: an error leaves the status registers consistent. -/
theorem raise_statusOk (k : ErrorKind) (s : State) : (raise k s).StatusOk := by
  simp [State.StatusOk]

/-- A command that ends with its result in OUT leaves the status registers consistent. -/
theorem finish_statusOk {s : State} (he : s.err = none) (ho : s.outlen.toNat ≤ s.cap)
    (hw : s.written .outBuf s.outlen.toNat) (hr : s.rngPending = false) : (finish s).StatusOk :=
  ⟨fun _ => rfl, fun h => absurd rfl h, fun _ h => absurd he h, ho, fun _ _ => hw, by simp [hr]⟩

/-- A block written at the end of what is written. -/
theorem Memory.written_writeBlock {d : Option Byte} {m : Memory} {a : Nat} (b : Block)
    (h : ∀ x, x < a → (Memory.read d m x).isSome = true) :
    ∀ x, x < a + 16 → (Memory.read d (m.writeBlock d a b) x).isSome = true := by
  intro x hx
  by_cases ha : x < a
  · rw [Memory.read_writeBlock_other d m b (.inl ha)]
    exact h x ha
  · exact Memory.read_writeBlock_isSome d m b (Nat.le_of_not_lt ha) hx

/-! ## What each phase relies on -/

section
variable {s : State}

theorem State.phaseOk_kExpand (hp : s.phase = .kExpand) :
    s.PhaseOk ↔ s.keyed = false ∧ s.klen = s.keylen.toNat ∧ (variantOf s.klen).isSome = true := by
  simp only [State.PhaseOk, hp]

theorem State.phaseOk_ePad (hp : s.phase = .ePad) : s.PhaseOk ↔ s.encChecked := by
  simp only [State.PhaseOk, hp]

theorem State.phaseOk_eGenIv (hp : s.phase = .eGenIv) : s.PhaseOk ↔ s.encChecked ∧ s.padReady := by
  simp only [State.PhaseOk, hp]

theorem State.phaseOk_eChain (hp : s.phase = .eChain) :
    s.PhaseOk ↔
      s.encChecked ∧ s.padReady ∧ 1 ≤ s.idx ∧ s.idx ≤ s.nblk + 1 ∧ s.written .outBuf (16 * s.idx) := by
  simp only [State.PhaseOk, hp]

theorem State.phaseOk_dSplitIv (hp : s.phase = .dSplitIv) : s.PhaseOk ↔ s.decChecked := by
  simp only [State.PhaseOk, hp]

theorem State.phaseOk_dValidate (hp : s.phase = .dValidate) : s.PhaseOk ↔ s.decChecked := by
  simp only [State.PhaseOk, hp]

theorem State.phaseOk_dChain (hp : s.phase = .dChain) :
    s.PhaseOk ↔ s.decAligned ∧ 1 ≤ s.idx ∧ s.idx ≤ s.nblk + 1 ∧ s.written .work (16 * (s.idx - 1)) := by
  simp only [State.PhaseOk, hp]

theorem State.phaseOk_dStrip (hp : s.phase = .dStrip) :
    s.PhaseOk ↔ s.decAligned ∧ s.idx = s.nblk + 1 ∧ s.written .work s.wlen := by
  simp only [State.PhaseOk, hp]

end

/-- The padded plaintext is whole blocks and fits (R142, R151). -/
theorem padded_fits {s : State} (hmax : maxPtOk s.maxPt = true) (hc : s.encChecked) (hr : s.padReady) :
    16 * s.nblk = s.wlen ∧ s.wlen ≤ s.maxPt := by
  obtain ⟨hm, -, -⟩ := (maxPtOk_iff _).mp hmax
  obtain ⟨-, -, hl⟩ := hc
  obtain ⟨hw, hn, -⟩ := hr
  have hmod := ceil16_mod s.len
  have hle := ceil16_le hm hl
  omega

/-- The decrypted buffer is whole blocks and fits (R163, R151). -/
theorem aligned_fits {s : State} (h : s.decAligned) : 16 * s.nblk = s.wlen ∧ s.wlen ≤ s.maxPt := by
  obtain ⟨⟨-, -, hge, hle⟩, hm, hw, hn⟩ := h
  unfold State.cap at hle
  omega

/-! ## The engine keeps the invariant -/

theorem EngineMove.keeps_maxPt {s t : State} (h : EngineMove s t) : t.maxPt = s.maxPt := by
  cases h <;> rfl

theorem EngineMove.keeps_memOk {s t : State} (h : EngineMove s t) (hi : s.Inv) : t.MemOk := by
  obtain ⟨hmax, hmem, -, -, hph⟩ := hi
  cases h
  case keyRefused | encRefused | ivRefused | decRefused | misaligned => exact hmem.clear_outBuf
  case pad bs hp hbs =>
    obtain ⟨-, -, hl⟩ := (State.phaseOk_ePad hp).mp hph
    obtain ⟨hm, -, -⟩ := (maxPtOk_iff _).mp hmax
    refine hmem.work_writeRange ?_
    rw [padded_length, (loadRange_ok hbs).1, Nat.zero_add]
    exact ceil16_le hm hl
  case ivTaken iv hp => exact hmem.outBuf_writeRange (by simp [State.cap])
  case encBlock c hp hi =>
    obtain ⟨hc, hr, -, -, -⟩ := (State.phaseOk_eChain hp).mp hph
    have hf := padded_fits hmax hc hr
    refine hmem.outBuf_writeRange ?_
    rw [blockBytes_length, State.cap]
    omega
  case decBlock c p hp hi =>
    obtain ⟨ha, h1, -, -⟩ := (State.phaseOk_dChain hp).mp hph
    have hf := aligned_fits ha
    refine hmem.work_writeRange ?_
    rw [blockBytes_length]
    omega
  case stripped bs hp hbs =>
    obtain ⟨ha, -, -⟩ := (State.phaseOk_dStrip hp).mp hph
    have hf := aligned_fits ha
    have hs := strip_length_le bs
    have hl := (loadRange_ok hbs).1
    refine hmem.outBuf_writeRange ?_
    rw [State.cap]
    omega
  all_goals exact hmem

theorem EngineMove.keeps_keyedOk {s t : State} (h : EngineMove s t) (hk : s.KeyedOk) : t.KeyedOk := by
  cases h
  case keyRefused | keyAccepted => exact fun h => Bool.noConfusion h
  case expand v hp hv =>
    refine fun _ => ⟨s.keyBytes s.klen, ?_, schedule_loadSchedule s.rk (keyExpansion_length v _)⟩
    rw [keyBytes_length]
    exact variantOf_some hv
  all_goals exact hk

theorem EngineMove.keeps_statusOk {s t : State} (h : EngineMove s t) (hi : s.Inv) : t.StatusOk := by
  obtain ⟨hmax, -, -, hst, hph⟩ := hi
  cases h
  case hold | waitIv => exact hst
  case keyRefused | encRefused | ivRefused | decRefused | misaligned => exact raise_statusOk _ _
  case expand v hp hv =>
    have hb : s.phase ≠ .idle := by simp [hp]
    have ho : s.outlen = 0#32 := hst.outlen_of_busy hb
    refine finish_statusOk (hst.err_of_busy hb) ?_ ?_ (hst.not_pending (by simp [hp]))
    · simp [ho]
    · simp [ho, State.written]
  case encEnd hp hi =>
    obtain ⟨hc, hr, -, -, hw⟩ := (State.phaseOk_eChain hp).mp hph
    obtain ⟨-, -, hlt⟩ := (maxPtOk_iff _).mp hmax
    have hf := padded_fits hmax hc hr
    have ho : (BitVec.ofNat 32 (16 + s.wlen)).toNat = 16 * s.idx := by
      rw [BitVec.toNat_ofNat, Nat.mod_eq_of_lt (by omega)]
      omega
    refine finish_statusOk (hst.err_of_busy (by simp [hp])) ?_ ?_ (hst.not_pending (by simp [hp]))
    · simp only [ho, State.cap]
      omega
    · simp only [ho]
      exact hw
  case stripped bs hp hbs =>
    obtain ⟨ha, -, -⟩ := (State.phaseOk_dStrip hp).mp hph
    obtain ⟨-, -, hlt⟩ := (maxPtOk_iff _).mp hmax
    have hf := aligned_fits ha
    have hs := strip_length_le bs
    have hl := (loadRange_ok hbs).1
    have ho : (BitVec.ofNat 32 (strip bs).length).toNat = (strip bs).length := by
      rw [BitVec.toNat_ofNat, Nat.mod_eq_of_lt (by omega)]
    refine finish_statusOk (hst.err_of_busy (by simp [hp])) ?_ ?_ (hst.not_pending (by simp [hp]))
    · simp only [ho, State.cap]
      omega
    · simp only [ho]
      exact fun x hx => Memory.read_writeRange_isSome none s.outBuf (strip bs) (Nat.zero_le x) (by omega)
  case pad _ hp _ | ivTaken _ hp => exact hst.advance (by simp [hp]) (by simp) (by simp)
  case encBlock c hp _ | decBlock c p hp _ =>
    exact hst.advance (by simp [hp]) (by simp [hp]) (by simp [hp, hst.not_pending])
  case keyAccepted hp _ | encAccepted hp _ _ | decAccepted hp _ _ _ | splitIv _ hp | aligned hp _ | decExit hp _ =>
    exact hst.advance (by simp [hp]) (by simp) (by simp [hp, hst.not_pending])

theorem EngineMove.keeps_phaseOk {s t : State} (h : EngineMove s t) (hph : s.PhaseOk) : t.PhaseOk := by
  cases h
  case hold | waitIv => exact hph
  case keyAccepted hp hv => exact (State.phaseOk_kExpand rfl).mpr ⟨rfl, rfl, hv⟩
  case encAccepted hp hk hl => exact (State.phaseOk_ePad rfl).mpr ⟨hk, rfl, hl⟩
  case pad bs hp hbs =>
    refine (State.phaseOk_eGenIv rfl).mpr ⟨(State.phaseOk_ePad hp).mp hph, rfl, rfl, fun x hx => ?_⟩
    refine Memory.read_writeRange_isSome none s.work (padded bs) (Nat.zero_le x) ?_
    rw [padded_length, (loadRange_ok hbs).1, Nat.zero_add]
    exact hx
  case ivTaken iv hp =>
    obtain ⟨hc, hr⟩ := (State.phaseOk_eGenIv hp).mp hph
    refine (State.phaseOk_eChain rfl).mpr ⟨hc, hr, Nat.le_refl 1, Nat.le_add_left 1 _, ?_⟩
    simp only [State.written, load_outBuf]
    exact Memory.written_writeBlock (a := 0) iv fun x hx => absurd hx (Nat.not_lt_zero x)
  case encBlock c hp hi =>
    obtain ⟨hc, hr, -, -, hw⟩ := (State.phaseOk_eChain hp).mp hph
    refine (State.phaseOk_eChain (by exact hp)).mpr ⟨hc, hr, Nat.le_add_left 1 _, Nat.succ_le_succ hi, ?_⟩
    simp only [State.written, load_outBuf] at hw ⊢
    exact Memory.written_writeBlock c hw
  case decAccepted hp hk hl hc => exact (State.phaseOk_dSplitIv rfl).mpr ⟨hk, rfl, hl, hc⟩
  case splitIv iv hp => exact (State.phaseOk_dValidate rfl).mpr ((State.phaseOk_dSplitIv hp).mp hph)
  case aligned hp hm =>
    have hc : s.decChecked := (State.phaseOk_dValidate hp).mp hph
    exact (State.phaseOk_dChain rfl).mpr ⟨⟨hc, hm, rfl, rfl⟩, Nat.le_refl 1, Nat.le_add_left 1 _,
      fun x hx => absurd hx (Nat.not_lt_zero x)⟩
  case decBlock c p hp hi =>
    obtain ⟨ha, h1, -, hw⟩ := (State.phaseOk_dChain hp).mp hph
    refine (State.phaseOk_dChain (by exact hp)).mpr ⟨ha, Nat.le_add_left 1 _, Nat.succ_le_succ hi, ?_⟩
    have hn : 16 * (s.idx + 1 - 1) = 16 * (s.idx - 1) + 16 := by omega
    simp only [State.written, load_work, hn] at hw ⊢
    exact Memory.written_writeBlock p hw
  case decExit hp hi =>
    obtain ⟨ha, -, hle, hw⟩ := (State.phaseOk_dChain hp).mp hph
    have hn : s.idx = s.nblk + 1 := by omega
    refine (State.phaseOk_dStrip rfl).mpr ⟨ha, hn, ?_⟩
    rw [hn, Nat.add_sub_cancel, (aligned_fits ha).1] at hw
    exact hw
  all_goals exact True.intro

/-- Every move of the engine keeps the invariant. -/
theorem EngineMove.keeps_inv {s t : State} (h : EngineMove s t) (hi : s.Inv) : t.Inv := by
  have ⟨hmax, _, hkey, _, hph⟩ := hi
  exact ⟨h.keeps_maxPt ▸ hmax, h.keeps_memOk hi, h.keeps_keyedOk hkey, h.keeps_statusOk hi, h.keeps_phaseOk hph⟩

/-! ## The host, reset, and one step -/

/-- The issue of a command in an idle engine (R83). -/
theorem issue_inv {s : State} {p : Phase} (hi : s.Inv) (hp : s.phase = .idle) (hf : p.isFirst = true) :
    (issue p s).Inv := by
  obtain ⟨hmax, hmem, hkey, hst, -⟩ := hi
  have hr : s.rngPending = false := hst.not_pending (by simp [hp])
  cases p
  case kInit | eInit | dInit =>
    exact ⟨hmax, hmem.clear_outBuf, hkey, .of_busy (by simp) rfl rfl rfl (by simp [hr]), True.intro⟩
  all_goals cases hf

theorem raise_inv {s : State} (k : ErrorKind) (hmax : maxPtOk s.maxPt = true) (hmem : s.MemOk) (hkey : s.KeyedOk) :
    (raise k s).Inv := ⟨hmax, hmem.clear_outBuf, hkey, raise_statusOk k s, True.intro⟩

/-- In an idle engine a store to KEY or IN keeps the invariant. -/
theorem store_inv {s : State} {r : Region} {off : Nat} (b : Byte) (hi : s.Inv) (hp : s.phase = .idle)
    (hr : r = .key ∨ r = .inBuf) (ho : off < regionSize s r) : (s.store r off b).Inv := by
  obtain ⟨hmax, hmem, hkey, hst, -⟩ := hi
  rcases hr with rfl | rfl
  · exact ⟨hmax, hmem.store b ho, hkey, hst, by simp [State.PhaseOk, hp]⟩
  · exact ⟨hmax, hmem.store b ho, hkey, hst, by simp [State.PhaseOk, hp]⟩

/-- Every move of the host keeps the invariant. -/
theorem HostMove.keeps_inv {s t : State} {l : HostLine} (h : HostMove s l t) (hi : s.Inv) : t.Inv := by
  have ⟨hmax, hmem, hkey, hst, _⟩ := hi
  cases h with
  | observe l d es rs => exact hi
  | issue v p hp hf => exact issue_inv hi hp hf
  | illegal v hp => exact raise_inv _ hmax hmem.clear_outBuf hkey
  | keylen v hp => exact ⟨hmax, hmem, hkey, hst, by simp [State.PhaseOk, hp]⟩
  | inlen v hp => exact ⟨hmax, hmem, hkey, hst, by simp [State.PhaseOk, hp]⟩
  | store sp r off b hp hr ho => exact store_inv b hi hp hr ho

/-- R43, R210: the engine after reset meets the invariant, whatever its legal `MAX_PT`. -/
theorem resetEngine_inv {s : State} (hmax : maxPtOk s.maxPt = true) : (resetEngine s).Inv := by
  refine ⟨hmax, ⟨rfl, rfl, rfl, rfl, rfl, rfl, rfl, rfl⟩, fun h => Bool.noConfusion h, ?_, True.intro⟩
  simp [State.StatusOk, State.reset]

/-- The formula of `Config.maxPt` gives a legal value, whatever the implementation's choice (R7, log 1). -/
theorem maxPtOk_config : maxPtOk Config.maxPt = true := by
  have hlt : Config.maxPtChoice % (2 ^ 28 - 2) < 2 ^ 28 - 2 := Nat.mod_lt _ (by decide)
  rw [maxPtOk_iff, Config.maxPt]
  omega

/-- Settles O57: the reset state is the state after a reset event with `Config.maxPt`. -/
theorem resetStateMeetsInv : Obligations.ResetStateMeetsInv := resetEngine_inv (s := State.reset) maxPtOk_config

/-- Settles O58: every move of a step keeps the invariant. -/
theorem stepKeepsInv : Obligations.StepKeepsInv := by
  intro s t hi h
  have hs : s.taken.Inv := hi
  have ⟨hmax, _⟩ := hi
  cases step_move h with
  | engine hm => exact hm.keeps_inv hs
  | host _ hm => exact hm.keeps_inv hs
  | reset _ => exact resetEngine_inv hmax
  | silence b => exact hs

end Sys2Proof.Machine
end

section
/-! What the host's byte accesses and reads do (spec/20 R51 to R53, R59, R60, R64): the writes of a busy and of an idle
engine, the reads of each space, and the access that the port does not define. -/

namespace Sys2Proof.Machine

/-! ## Writes -/

theorem writeCsr_busy {s : State} (n : Nat) (v : Reg32) (hp : s.phase ≠ .idle) : writeCsr n v s = .next s :=
  if_pos ((busy_iff s).mpr hp)

theorem writeByte_busy {s : State} (sp : Space) (off : Nat) (b : Byte) (hp : s.phase ≠ .idle) :
    writeByte sp off b s = s := if_pos ((busy_iff s).mpr hp)

theorem writeByte_inBuf {s : State} {off : Nat} (b : Byte) (hp : s.phase = .idle) (ho : off < s.cap) :
    writeByte .inBuf off b s = s.store .inBuf off b := by
  rw [writeByte, if_neg ((not_busy_iff s).mpr hp)]
  exact if_pos ho

theorem writeByte_key {s : State} {off : Nat} (b : Byte) (hp : s.phase = .idle) (ho : off < 32) :
    writeByte .key off b s = s.store .key off b := by
  rw [writeByte, if_neg ((not_busy_iff s).mpr hp)]
  exact if_pos ho

/-- R53: the host cannot write OUT. -/
theorem writeByte_outBuf (s : State) (off : Nat) (b : Byte) : writeByte .outBuf off b s = s := ite_self s

/-- R59. -/
theorem writeByte_inBuf_outside {s : State} {off : Nat} (b : Byte) (ho : s.cap ≤ off) :
    writeByte .inBuf off b s = s := by
  rw [writeByte]
  split
  · rfl
  · exact if_neg (Nat.not_lt_of_le ho)

/-- R59. -/
theorem writeByte_key_outside {s : State} {off : Nat} (b : Byte) (ho : 32 ≤ off) : writeByte .key off b s = s := by
  rw [writeByte]
  split
  · rfl
  · exact if_neg (Nat.not_lt_of_le ho)

@[simp] theorem store_cap (s : State) (r : Region) (a : Nat) (b : Byte) : (s.store r a b).cap = s.cap := by
  simp [State.cap]

/-! ## Reads -/

/-- R51: a host read shows no key byte. -/
theorem readByte_key (s : State) (off : Nat) : readByte .key off s = (0#8, s) := rfl

theorem readByte_inBuf_of_load {s : State} {off : Nat} {b : Byte} (ho : off < s.cap)
    (hb : s.load .inBuf off = some b) : readByte .inBuf off s = (b, s) := by
  rw [readByte, if_pos ho, hb, orDraw]

theorem readByte_inBuf_outside {s : State} {off : Nat} (ho : s.cap ≤ off) : readByte .inBuf off s = (0#8, s) :=
  if_neg (Nat.not_lt_of_le ho)

theorem readByte_outBuf_outside {s : State} {off : Nat} (ho : s.cap ≤ off) : readByte .outBuf off s = (0#8, s) :=
  if_neg (Nat.not_lt_of_le ho)

theorem outValid_iff (s : State) (off : Nat) :
    s.outValid off = true ↔ s.phase = .idle ∧ s.done = true ∧ s.err = none ∧ off < s.outlen.toNat := by
  simp [State.outValid, State.busy, and_assoc]

/-- R53: a byte of a valid result. -/
theorem readByte_outBuf_of_valid {s : State} {off : Nat} {b : Byte} (ho : off < s.cap)
    (hv : s.outValid off = true) (hb : s.load .outBuf off = some b) : readByte .outBuf off s = (b, s) := by
  rw [readByte, if_pos ho, if_pos hv, hb, orDraw]

/-- R53: a byte of OUT outside a valid result is a draw (log 8). -/
theorem readByte_outBuf_of_not_valid {s : State} {off : Nat} (ho : off < s.cap) (hv : ¬ s.outValid off = true) :
    readByte .outBuf off s = drawByte s := by
  rw [readByte, if_pos ho, if_neg hv, orDraw]

theorem draws_le_orDraw (s : State) (o : Option Byte) : s.draws ≤ (orDraw s o).2.draws := by
  cases o with
  | none => exact Nat.le_succ _
  | some b => exact Nat.le_refl _

/-- A read of a byte never lowers the count of draws. -/
theorem draws_le_readByte (sp : Space) (off : Nat) (s : State) : s.draws ≤ (readByte sp off s).2.draws := by
  cases sp
  case key => exact Nat.le_refl _
  all_goals
    simp only [readByte]
    split
    · exact draws_le_orDraw s _
    · exact Nat.le_refl _

/-! ## The obligations -/

/-- Settles O8: the busy engine's writes, and each of its reads. -/
theorem busyEngineIgnoresHostWrites : Obligations.BusyEngineIgnoresHostWrites := by
  intro s hp
  have hb : s.busy = true := (busy_iff s).mpr hp
  refine ⟨fun n v => writeCsr_busy n v hp, fun sp off b => congrArg Host.Outcome.next (writeByte_busy sp off b hp),
    rfl, if_pos hb, if_pos hb, rfl, rfl, fun off b => readByte_inBuf_of_load, readByte_key s, fun off => ?_⟩
  obtain ⟨d, hd⟩ := readByte_state .outBuf off s
  exact ⟨_, d, Prod.ext rfl hd⟩

/-- Settles O12: in range a write is a store, out of range it is ignored. -/
theorem hostByteAccesses : Obligations.HostByteAccesses := by
  intro s off b
  refine ⟨fun hp ho => ?_, fun hp ho => ?_, readByte_key s off, writeByte_outBuf s off b,
    fun ho => ⟨writeByte_inBuf_outside b ho, readByte_inBuf_outside ho, readByte_outBuf_outside ho⟩,
    writeByte_key_outside b⟩
  · rw [writeByte_inBuf b hp ho]
    have hl := load_store_same s .inBuf off b
    exact ⟨hl, readByte_inBuf_of_load (by rwa [store_cap]) hl, fun q x => load_store_other s b, rfl⟩
  · rw [writeByte_key b hp ho]
    exact ⟨load_store_same s .key off b, fun q x => load_store_other s b, rfl⟩

/-- Settles O14: the two kinds of byte that a read of OUT gives. -/
theorem outReadsResultOrDraw : Obligations.OutReadsResultOrDraw := by
  intro s off ho
  refine ⟨fun b hp hd he hl => readByte_outBuf_of_valid ho ((outValid_iff s off).mpr ⟨hp, hd, he, hl⟩), fun hn => ?_⟩
  refine readByte_outBuf_of_not_valid ho fun hv => ?_
  obtain ⟨hp, hd, he, hl⟩ := (outValid_iff s off).mp hv
  rcases hn with hn | hn | hn | hn
  · exact hn hp
  · exact Bool.noConfusion (hn.symm.trans hd)
  · exact hn he
  · exact Nat.not_lt_of_le hn hl

/-- Settles O13: the state after a byte read, and the note of the value read. -/
theorem hostReadsChangeNothing : Obligations.HostReadsChangeNothing := by
  intro s
  refine ⟨fun n => rfl, fun sp off => ?_⟩
  obtain ⟨d, hd⟩ := readByte_state sp off s
  have hle : s.draws ≤ d := by simpa [hd] using draws_le_readByte sp off s
  refine ⟨_, d, hle, ?_, rfl⟩
  rw [perform, hostLine, hostReadByte, hd, State.noteRead]

/-- Settles O15: the step performs the line that the port does not define. -/
theorem undefinedAccessRefused : Obligations.UndefinedAccessRefused := by
  intro s es hi
  rw [step_eq_perform, hi]
  rfl

end Sys2Proof.Machine
end

section
/-! The canonical form of the spaces (spec/20 R50, log 7, log 8): every move writes a space through the operations that
keep the form, or empties it. -/

namespace Sys2Proof.Machine

/-- Replacing one space by cells in canonical form. -/
theorem State.canonical.setRegion {s : State} (h : s.canonical) {r : Region} {m : Memory}
    (hm : Memory.wf (unlisted r) m = true) : (s.setRegion r m).canonical := by
  intro q
  by_cases hq : q = r
  · rw [hq, region_setRegion_same]
    exact hm
  · rw [region_setRegion_other s m hq]
    exact h q

theorem State.canonical.store {s : State} (h : s.canonical) (r : Region) (off : Nat) (b : Byte) :
    (s.store r off b).canonical := h.setRegion (Memory.wf_write off b (h r))

theorem State.canonical.writeRange {s : State} (h : s.canonical) (r : Region) (a : Nat) (bs : List Byte) :
    (s.setRegion r (Memory.writeRange (unlisted r) (s.region r) a bs)).canonical :=
  h.setRegion (Memory.wf_writeRange a bs (h r))

theorem State.canonical.clear {s : State} (h : s.canonical) (r : Region) : (s.setRegion r []).canonical :=
  h.setRegion (Memory.wf_nil _)

theorem EngineMove.keeps_canonical {s t : State} (h : EngineMove s t) (hc : s.canonical) : t.canonical := by
  cases h
  case keyRefused | encRefused | ivRefused | decRefused | misaligned => exact hc.clear .outBuf
  case pad bs _ _ => exact hc.writeRange .work 0 (padded bs)
  case ivTaken iv _ => exact hc.writeRange .outBuf 0 (blockBytes iv)
  case encBlock c _ _ => exact hc.writeRange .outBuf (16 * s.idx) (blockBytes c)
  case decBlock c p _ _ => exact hc.writeRange .work (16 * (s.idx - 1)) (blockBytes p)
  case stripped bs _ _ => exact hc.writeRange .outBuf 0 (strip bs)
  all_goals exact hc

theorem HostMove.keeps_canonical {s t : State} {l : HostLine} (h : HostMove s l t) (hc : s.canonical) :
    t.canonical := by
  cases h with
  | issue v p hp hf => exact hc.clear .outBuf
  | illegal v hp => exact hc.clear .outBuf
  | store sp r off b hp hr ho => exact hc.store r off b
  | _ => exact hc

/-- After a reset every space is empty (R43). -/
theorem resetEngine_canonical (s : State) : (resetEngine s).canonical := by
  intro r
  cases r <;> rfl

/-- Settles O56: every move of a step keeps the canonical form. -/
theorem stepKeepsMemoryCanonical : Obligations.StepKeepsMemoryCanonical := by
  intro s t hc h
  cases step_move h with
  | engine hm => exact hm.keeps_canonical hc
  | host _ hm => exact hm.keeps_canonical hc
  | reset _ => exact resetEngine_canonical _
  | silence b => exact hc

end Sys2Proof.Machine
end

section
/-! Where a step stops (spec/20 R69, spec/93 U2, U7): a command stops on the first operand byte without a value, and
under the invariant on nothing else; a host's line stops only on an access that the port does not define. -/

namespace Sys2Proof.Machine

/-! ## Loading a range with a byte that has no value -/

/-- The first offset without a value is the one a range that does not load names. -/
theorem loadRange_of_first_unwritten {s : State} {r : Region} {a n off : Nat} (ha : a ≤ off) (hn : off < a + n)
    (hoff : s.load r off = none) (hbefore : ∀ j, a ≤ j → j < off → (s.load r j).isSome = true) :
    s.loadRange r a n = .error off := by
  cases hr : s.loadRange r a n with
  | ok bs =>
    obtain ⟨hl, hj⟩ := loadRange_ok hr
    have hb := hj (off - a) (by omega)
    rw [Nat.add_sub_cancel' ha, hoff, eq_comm, List.getElem?_eq_none_iff] at hb
    omega
  | error x =>
    obtain ⟨hax, -, hx, hbx⟩ := loadRange_error hr
    rcases Nat.lt_trichotomy x off with hlt | rfl | hgt
    · simpa [hx] using hbefore x hax hlt
    · rfl
    · simpa [hoff] using hbx off ha hgt

theorem loadBlock_of_first_unwritten {s : State} {r : Region} {a off : Nat} (ha : a ≤ off) (hn : off < a + 16)
    (hoff : s.load r off = none) (hbefore : ∀ j, a ≤ j → j < off → (s.load r j).isSome = true) :
    s.loadBlock r a = .error off := by
  rw [State.loadBlock, loadRange_of_first_unwritten ha hn hoff hbefore]

/-- Settles O24: the load of the operand at `E_PAD` names the byte. -/
theorem encryptFaultsOnUnwrittenInput : Obligations.EncryptFaultsOnUnwrittenInput := by
  intro s off hp hlt hoff hbefore
  have hl : s.loadRange .inBuf 0 s.len = .error off :=
    loadRange_of_first_unwritten (Nat.zero_le off) (by omega) hoff fun j _ => hbefore j
  simp only [exec, execEncrypt, hp, encryptPad, hl]

/-- Settles O39: the load of the block at `D_SPLITIV` or `D_CHAIN` names the byte. -/
theorem decryptFaultsOnUnwrittenInput : Obligations.DecryptFaultsOnUnwrittenInput := by
  intro s off hoff
  refine ⟨fun hp hlt hbefore => ?_, fun hp h1 hn hge hlt hbefore => ?_⟩
  · have hl : s.loadBlock .inBuf 0 = .error off :=
      loadBlock_of_first_unwritten (Nat.zero_le off) (by omega) hoff fun j _ => hbefore j
    simp only [exec, execDecrypt, hp, decryptSplitIv, hl]
  · have hl : s.loadBlock .inBuf (16 * s.idx) = .error off := loadBlock_of_first_unwritten hge hlt hoff hbefore
    have h0 : s.idx ≠ 0 := Nat.ne_of_gt h1
    simp only [exec, execDecrypt, hp, decryptChain, h0, hn, if_true, if_false, decryptBlockStep, hl]

/-! ## The phases that stop on nothing but the operand -/

/-- The outcome is a next state, or the one fault that a run from reset can end in. -/
def goesOnOrLacksInput : Result → Prop
  | .next _ => True
  | .fault f => f.isUnwrittenInput = true
  | .refused _ => False

/-- A block whose bytes have values loads. -/
theorem loadBlock_of_written {s : State} {r : Region} {a n : Nat} (hw : s.written r n) (ha : a + 16 ≤ n) :
    ∃ b, s.loadBlock r a = .ok b := by
  obtain ⟨bs, hbs⟩ := loadRange_of_written (s := s) (r := r) (a := a) (n := 16) fun j hj => hw (a + j) (by omega)
  exact ⟨_, loadBlock_of_range hbs⟩

theorem constructExpand_goesOn {s : State} (hv : (variantOf s.klen).isSome = true) :
    goesOnOrLacksInput (constructExpand s) := by
  obtain ⟨v, hv⟩ := Option.isSome_iff_exists.mp hv
  simp only [constructExpand, hv, goesOnOrLacksInput]

theorem encryptPad_goesOn (s : State) : goesOnOrLacksInput (encryptPad s) := by
  unfold encryptPad
  split
  · rfl
  · trivial

theorem encryptBlockStep_goesOn {s : State} (hw : s.written .work s.wlen) (h1 : 1 ≤ s.idx)
    (hn : 16 * s.idx ≤ s.wlen) : goesOnOrLacksInput (encryptBlockStep s) := by
  obtain ⟨p, hp⟩ := loadBlock_of_written (a := 16 * (s.idx - 1)) hw (by omega)
  simp only [encryptBlockStep, hp, goesOnOrLacksInput]

theorem encryptChain_goesOn {s : State} (hw : s.written .work s.wlen) (hn : 16 * s.nblk = s.wlen) (h1 : 1 ≤ s.idx)
    (hle : s.idx ≤ s.nblk + 1) : goesOnOrLacksInput (encryptChain s) := by
  rw [encryptChain, if_neg (Nat.ne_of_gt h1)]
  split
  · exact encryptBlockStep_goesOn hw h1 (by omega)
  · rw [if_pos (by omega)]
    trivial

theorem decryptSplitIv_goesOn (s : State) : goesOnOrLacksInput (decryptSplitIv s) := by
  unfold decryptSplitIv
  split
  · rfl
  · trivial

theorem decryptBlockStep_goesOn (s : State) : goesOnOrLacksInput (decryptBlockStep s) := by
  unfold decryptBlockStep
  split
  · rfl
  · trivial

theorem decryptChain_goesOn {s : State} (h1 : 1 ≤ s.idx) : goesOnOrLacksInput (decryptChain s) := by
  rw [decryptChain, if_neg (Nat.ne_of_gt h1)]
  split
  · exact decryptBlockStep_goesOn s
  · trivial

theorem decryptStrip_goesOn {s : State} (hw : s.written .work s.wlen) : goesOnOrLacksInput (decryptStrip s) := by
  obtain ⟨bs, hbs⟩ := loadRange_of_written (s := s) (r := .work) (a := 0) (n := s.wlen) fun j hj =>
    hw (0 + j) (by omega)
  simp only [decryptStrip, hbs, goesOnOrLacksInput]

/-! ## The agents -/

/-- Under the invariant the engine's turn stops on nothing but the operand (R69). -/
theorem engineTurn_goesOn {s : State} (hi : s.Inv) : goesOnOrLacksInput (engineTurn s) := by
  obtain ⟨hmax, -, -, -, hph⟩ := hi
  cases hp : s.phase <;> simp only [engineTurn, Phase.command, exec, execConstruct, execEncrypt, execDecrypt, hp]
  case kExpand =>
    obtain ⟨-, -, hv⟩ := (State.phaseOk_kExpand hp).mp hph
    exact constructExpand_goesOn hv
  case ePad => exact encryptPad_goesOn s
  case eChain =>
    obtain ⟨hc, hr, h1, hle, -⟩ := (State.phaseOk_eChain hp).mp hph
    have ⟨_, _, hw⟩ := hr
    exact encryptChain_goesOn hw (padded_fits hmax hc hr).1 h1 hle
  case dSplitIv => exact decryptSplitIv_goesOn s
  case dChain =>
    obtain ⟨-, h1, -, -⟩ := (State.phaseOk_dChain hp).mp hph
    exact decryptChain_goesOn h1
  case dStrip =>
    obtain ⟨-, -, hw⟩ := (State.phaseOk_dStrip hp).mp hph
    exact decryptStrip_goesOn hw
  all_goals trivial

theorem commandWrite_goesOn {s : State} (v : Reg32) (hp : s.phase = .idle) :
    goesOnOrLacksInput (commandWrite v s) := by
  unfold commandWrite
  split
  · next i _ =>
    obtain ⟨p, -, he⟩ := exec_idle i hp
    rw [he]
    trivial
  · trivial

theorem writeCsr_goesOn (n : Nat) (v : Reg32) (s : State) : goesOnOrLacksInput (writeCsr n v s) := by
  unfold writeCsr
  split
  · trivial
  · next hb =>
    split
    · exact commandWrite_goesOn v ((not_busy_iff s).mp hb)
    all_goals trivial

/-- A line stops only on an access that the port does not define (U7). -/
theorem hostLine_goesOn {l : HostLine} (s : State) (hl : l ≠ .undefined) : goesOnOrLacksInput (hostLine l s) := by
  cases l with
  | wr n v => exact writeCsr_goesOn n v s
  | wait =>
    simp only [hostLine]
    split <;> trivial
  | undefined => exact absurd rfl hl
  | _ => trivial

theorem perform_goesOn {e : Event} {s : State} (hi : s.Inv) (he : e ≠ .host .undefined) :
    goesOnOrLacksInput (perform e s) := by
  cases e with
  | engine => exact engineTurn_goesOn hi
  | host l => exact hostLine_goesOn s fun hl => he (hl ▸ rfl)
  | reset => trivial
  | silence b => trivial

/-- Under the invariant a step whose event is no undefined access goes on, or lacks an operand byte. -/
theorem step_goesOn {s : State} (hi : s.Inv) (hu : s.inputs.head? ≠ some (.host .undefined)) :
    goesOnOrLacksInput (step s) := by
  rw [step_eq_perform]
  refine perform_goesOn (s := s.taken) hi ?_
  cases hin : s.inputs with
  | nil => exact Event.noConfusion
  | cons e es => simpa [hin] using hu

/-- Settles O59: an undefined access is refused by name; every other event goes on or lacks an operand byte. -/
theorem onlyUnwrittenInputStopsARun : Obligations.OnlyUnwrittenInputStopsARun := by
  intro s hi
  by_cases hu : s.inputs.head? = some (.host .undefined)
  · obtain ⟨es, hes⟩ := List.head?_eq_some_iff.mp hu
    rw [undefinedAccessRefused s es hes]
    refine ⟨fun f hf => (by cases hf), fun r hr => ?_⟩
    cases hr
    exact ⟨rfl, hu⟩
  · have hgo := step_goesOn hi hu
    refine ⟨fun f hf => ?_, fun r hr => ?_⟩
    · rw [hf] at hgo
      exact hgo
    · rw [hr] at hgo
      exact hgo.elim

end Sys2Proof.Machine
end

section
/-! The CMD word (spec/30 R71, R72, R78): the two fields determine the word, and the decoder is the inverse of the
encoder on the words it accepts. -/

namespace Sys2Proof

/-! ## The two fields -/

theorem cmdZero_append_cmdOp (v : BitVec 32) : cmdZero v ++ cmdOp v = v :=
  (BitVec.extractLsb'_append_extractLsb'_eq_extractLsb' (Nat.zero_add 4).symm).trans BitVec.extractLsb'_eq_self

theorem cmdZero_append (z : BitVec 28) (op : BitVec 4) : cmdZero (z ++ op) = z := BitVec.extractLsb'_append_eq_left

theorem cmdOp_append (z : BitVec 28) (op : BitVec 4) : cmdOp (z ++ op) = op := BitVec.extractLsb'_append_eq_right

/-- The two fields determine the word, here one whose `ZERO` is 0 (R71). -/
theorem eq_zero_append_iff (v : BitVec 32) (op : BitVec 4) : v = 0#28 ++ op ↔ cmdZero v = 0#28 ∧ cmdOp v = op := by
  constructor
  · rintro rfl
    exact ⟨cmdZero_append _ _, cmdOp_append _ _⟩
  · rintro ⟨hz, ho⟩
    rw [← hz, ← ho, cmdZero_append_cmdOp]

theorem cmdZero_eq_zero_iff (v : BitVec 32) : cmdZero v = 0#28 ↔ v.toNat < 16 := by
  have hv := v.isLt
  rw [← BitVec.toNat_inj, cmdZero, BitVec.extractLsb'_toNat, Nat.shiftRight_eq_div_pow, BitVec.toNat_ofNat]
  omega

/-! ## The operation code -/

theorem decodeOp_opOf (i : Instr) : decodeOp (opOf i) = .ok i := by cases i <;> rfl

/-- The operation codes that are no command's (R78). -/
theorem decodeOp_error_iff (op : BitVec 4) (e : DecodeError) :
    decodeOp op = .error e ↔ e = .reservedOp op ∧ op ≠ 1#4 ∧ op ≠ 2#4 ∧ op ≠ 3#4 := by
  unfold decodeOp
  split
  · next h => simp [h]
  · next h1 =>
    split
    · next h => simp [h]
    · next h2 =>
      split
      · next h => simp [h]
      · next h3 => simp [h1, h2, h3, eq_comm]

theorem decodeOp_ok_iff (op : BitVec 4) (i : Instr) : decodeOp op = .ok i ↔ opOf i = op := by
  constructor
  · intro h
    unfold decodeOp at h
    split at h
    · next ho => cases h; exact ho.symm
    · split at h
      · next ho => cases h; exact ho.symm
      · split at h
        · next ho => cases h; exact ho.symm
        · cases h
  · rintro rfl
    exact decodeOp_opOf i

/-! ## The word -/

theorem decode_ok_iff (v : BitVec 32) (i : Instr) : decode v = .ok i ↔ encode i = v := by
  have hw : encode i = v ↔ cmdZero v = 0#28 ∧ cmdOp v = opOf i := eq_comm.trans (eq_zero_append_iff v (opOf i))
  rw [hw, decode]
  split
  · next hz => rw [decodeOp_ok_iff, and_iff_right hz, eq_comm]
  · next hz => simp [hz]

theorem decode_encode (i : Instr) : decode (encode i) = .ok i := (decode_ok_iff _ _).mpr rfl

theorem decode_zeroField_iff (v : BitVec 32) : decode v = .error .zeroFieldNonzero ↔ cmdZero v ≠ 0#28 := by
  rw [decode]
  split
  · next hz => simp [hz, decodeOp_error_iff]
  · next hz => simp [hz]

theorem decode_reservedOp_iff (v : BitVec 32) (op : BitVec 4) :
    decode v = .error (.reservedOp op) ↔ v = 0#28 ++ op ∧ op ≠ 1#4 ∧ op ≠ 2#4 ∧ op ≠ 3#4 := by
  rw [eq_zero_append_iff, decode]
  split
  · next hz =>
    rw [decodeOp_error_iff]
    constructor
    · rintro ⟨he, hop⟩
      cases he
      exact ⟨⟨hz, rfl⟩, hop⟩
    · rintro ⟨⟨-, rfl⟩, hop⟩
      exact ⟨rfl, hop⟩
  · next hz => simp [hz]

/-- A word that encodes no command is rejected. -/
theorem decode_error_of_ne_encode {v : BitVec 32} (h : ∀ i, encode i ≠ v) : ∃ e, decode v = .error e := by
  cases hd : decode v with
  | error e => exact ⟨e, rfl⟩
  | ok i => exact absurd ((decode_ok_iff v i).mp hd) (h i)

/-! ## The obligations -/

/-- Settles O1: decoding inverts encoding, and the three encodings. -/
theorem cmdWordDecodesExactlyThreeCommands : Obligations.CmdWordDecodesExactlyThreeCommands :=
  ⟨decode_ok_iff, rfl, rfl, rfl⟩

/-- Settles O2: the upper bits are zero exactly below 16, and the operation codes that are no command's. -/
theorem otherCmdWordsRejectedByName : Obligations.OtherCmdWordsRejectedByName := by
  intro v
  refine ⟨?_, decode_reservedOp_iff v⟩
  rw [decode_zeroField_iff, Ne, cmdZero_eq_zero_iff, Nat.not_lt]

/-- Settles O3: the words of R72's table, and four illegal ones through the two rules of rejection. -/
theorem sampleCmdWordsDecode : Obligations.SampleCmdWordsDecode :=
  ⟨decode_construct_word, decode_encrypt_word, decode_decrypt_word,
    (decode_reservedOp_iff _ _).mpr (by decide), (decode_reservedOp_iff _ _).mpr (by decide),
    (decode_zeroField_iff _).mpr (by decide), (decode_zeroField_iff _).mpr (by decide)⟩

end Sys2Proof
end

section
/-! The issue of a command (spec/30 R83, spec/10 R31): a write to CMD, and the step that takes the next event or the
engine's turn. -/

namespace Sys2Proof.Machine

/-! ## A write to CMD -/

/-- The first phase of a command (R83). -/
def firstPhase : Instr → Phase
  | .construct => .kInit
  | .encrypt => .eInit
  | .decrypt => .dInit

/-- In an idle engine the meaning of a command is its issue (R83). -/
theorem exec_eq_issue {s : State} (i : Instr) (hp : s.phase = .idle) : exec i s = .next (issue (firstPhase i) s) := by
  cases i
  case construct => simp only [exec, execConstruct, hp, firstPhase]
  case encrypt => simp only [exec, execEncrypt, hp, firstPhase]
  case decrypt => simp only [exec, execDecrypt, hp, firstPhase]

theorem writeCsr_cmd {s : State} (v : Reg32) (hp : s.phase = .idle) : writeCsr 0 v s = commandWrite v s :=
  if_neg ((not_busy_iff s).mpr hp)

theorem commandWrite_of_decode {v : Reg32} {i : Instr} (s : State) (hd : decode v = .ok i) :
    commandWrite v s = exec i s := by rw [commandWrite, hd]

theorem commandWrite_of_error {v : Reg32} {e : DecodeError} (s : State) (hd : decode v = .error e) :
    commandWrite v s = .next (raise .illegalCommand (issueClear s)) := by rw [commandWrite, hd]

/-- A write of a command's word to CMD issues the command in an idle engine (R83). -/
theorem writeCsr_encode {s : State} (i : Instr) (hp : s.phase = .idle) :
    writeCsr 0 (encode i) s = .next (issue (firstPhase i) s) := by
  rw [writeCsr_cmd _ hp, commandWrite_of_decode s (decode_encode i), exec_eq_issue i hp]

/-- A write of any other word ends at once with `IllegalCommand` (R78, R83). -/
theorem writeCsr_illegal {s : State} {v : Reg32} (hp : s.phase = .idle) (hv : ∀ i, encode i ≠ v) :
    writeCsr 0 v s = .next (raise .illegalCommand (issueClear s)) := by
  obtain ⟨e, he⟩ := decode_error_of_ne_encode hv
  rw [writeCsr_cmd v hp, commandWrite_of_error s he]

/-- Settles O4: the busy engine's write, the three issues, and the words that are no command's. -/
theorem cmdWriteIssuesOrEndsIllegal : Obligations.CmdWriteIssuesOrEndsIllegal := by
  intro s v
  refine ⟨writeCsr_busy 0 v, fun hp => ⟨[], ?_, ?_, ?_, fun h1 h2 h3 => writeCsr_illegal hp fun i => ?_⟩⟩
  · rintro rfl; exact writeCsr_encode .construct hp
  · rintro rfl; exact writeCsr_encode .encrypt hp
  · rintro rfl; exact writeCsr_encode .decrypt hp
  · cases i
    case construct => exact h1.symm
    case encrypt => exact h2.symm
    case decrypt => exact h3.symm

/-- Settles O5: the issue of each command. -/
theorem idleEngineIssuesCommand : Obligations.IdleEngineIssuesCommand :=
  fun _ hp => ⟨exec_eq_issue .construct hp, exec_eq_issue .encrypt hp, exec_eq_issue .decrypt hp⟩

/-! ## The step -/

theorem step_of_inputs_nil {s : State} (hi : s.inputs = []) : step s = engineTurn s := by rw [step, hi]

theorem step_of_inputs_cons {s : State} {e : Event} {es : List Event} (hi : s.inputs = e :: es) :
    step s = perform e { s with inputs := es } := by rw [step, hi]

theorem engineTurn_idle {s : State} (hp : s.phase = .idle) : engineTurn s = .next s := by
  rw [engineTurn, hp]
  rfl

theorem engineTurn_command {s : State} {i : Instr} (hc : s.phase.command = some i) : engineTurn s = exec i s := by
  rw [engineTurn, hc]

/-- The step that takes a host's write of a command's word in an idle engine runs the command (R83). -/
theorem step_cmdWrite {s : State} {v : Reg32} {es : List Event} {i : Instr}
    (hi : s.inputs = .host (.wr 0 v) :: es) (hp : s.phase = .idle) (hd : decode v = .ok i) :
    step s = exec i { s with inputs := es } := by
  rw [step_of_inputs_cons hi]
  exact (writeCsr_cmd (s := { s with inputs := es }) v hp).trans (commandWrite_of_decode _ hd)

/-- Settles O6: `withFetchWord` is one more write of a command's word in an idle engine. -/
theorem stepRunsDecodedCommand : Obligations.StepRunsDecodedCommand := by
  refine ⟨fun s v es i => step_cmdWrite, fun s i => ?_⟩
  have hw : BitVec.ofNat 32 ((encode i).toNat % 2 ^ 32) = encode i := by
    rw [Nat.mod_eq_of_lt (encode i).isLt, BitVec.ofNat_toNat, BitVec.setWidth_eq]
  refine step_cmdWrite (s := s.withFetchWord 32 (encode i).toNat) rfl rfl ?_
  rw [hw, decode_encode]

/-- Settles O7: the engine's turn, idle and in flight, with and without an event. -/
theorem engineTurnAdvancesCommandInFlight : Obligations.EngineTurnAdvancesCommandInFlight := by
  intro s
  refine ⟨fun hi hp => ?_, fun i hi hc => ?_, fun i es hi hc => ?_, fun es hi hp => ?_⟩
  · rw [step_of_inputs_nil hi, engineTurn_idle hp]
  · rw [step_of_inputs_nil hi, engineTurn_command hc]
  · rw [step_of_inputs_cons hi]
    exact engineTurn_command hc
  · rw [step_of_inputs_cons hi]
    exact engineTurn_idle hp

end Sys2Proof.Machine
end

section
/-! The host lines of LOADIN (spec/30 R81): in an idle engine each byte line is one store in IN, so the lines together
write the operand as one range, and the last line latches its length. -/

namespace Sys2Proof.Machine

theorem run_succ_of_next {M : Host.Core} {s t : M.State} (n : Nat) (h : M.step s = .next t) :
    M.run (n + 1) s = M.run n t := by
  rw [Host.Core.run, h]

/-- A step that does not stop is the first step of every longer run of the machine. -/
theorem run_core_of_step {s t : State} (n : Nat) (h : step s = .next t) :
    Host.Core.run Sys2Proof.core (n + 1) s = Host.Core.run Sys2Proof.core n t :=
  run_succ_of_next (M := Sys2Proof.core) n h

/-- The state after the host has stored `h` in IN from offset `off` on, with `es` still to come. -/
def State.loaded (s : State) (off : Nat) (h : List Byte) (es : List Event) : State :=
  { s with inputs := es, inBuf := Memory.writeRange (unlisted .inBuf) s.inBuf off h }

/-- One byte line of LOADIN is one store. -/
theorem step_writeLine {s : State} {off : Nat} {b : Byte} {es : List Event} (hp : s.phase = .idle)
    (ho : off < s.cap) (hi : s.inputs = .host (.wb .inBuf off b) :: es) :
    step s = .next (s.loaded off [b] es) := by
  rw [step_of_inputs_cons hi]
  exact congrArg Host.Outcome.next (writeByte_inBuf b hp ho)

/-- The byte lines of LOADIN write the operand as one range, a step a byte (R81). -/
theorem run_writeLines {s : State} {off : Nat} {h : List Byte} {es : List Event} (k : Nat) (hp : s.phase = .idle)
    (ho : off + h.length ≤ s.cap) (hi : s.inputs = (writeLines .inBuf off h).map .host ++ es) :
    Host.Core.run Sys2Proof.core (h.length + k) s = Host.Core.run Sys2Proof.core k (s.loaded off h es) := by
  induction h generalizing s off with
  | nil =>
    have hs : s.loaded off [] es = s := by rw [State.loaded, ← show s.inputs = es from hi, Memory.writeRange]
    rw [hs, List.length_nil, Nat.zero_add]
  | cons b bs ih =>
    rw [List.length_cons] at ho
    have hb : off + 1 + bs.length ≤ s.cap := by omega
    rw [List.length_cons, Nat.add_right_comm]
    exact (run_core_of_step _ (step_writeLine hp (by omega) hi)).trans (ih (s := s.loaded off [b] _) hp hb rfl)

/-- LOADIN as a whole: IN holds the operand, INLEN its length (R81). -/
theorem run_loadInLines {s : State} {h : List Byte} {es : List Event} (hp : s.phase = .idle)
    (hl : h.length ≤ s.cap) (hi : s.inputs = (loadInLines h).map .host ++ es) :
    Host.Core.run Sys2Proof.core (h.length + 1) s =
      .next { s.loaded 0 h es with inlen := BitVec.ofNat 32 h.length } := by
  rw [loadInLines, List.map_append, List.append_assoc] at hi
  rw [run_writeLines 1 hp (by rwa [Nat.zero_add]) hi]
  refine run_core_of_step 0 ((step_of_inputs_cons (s := s.loaded 0 h _) rfl).trans ?_)
  exact writeCsr_inlen (s := s.loaded 0 h es) _ hp

/-- Settles O17: the bytes of the range written, the bytes past it, and the length, which fits the register. -/
theorem loadInFillsInputBuffer : Obligations.LoadInFillsInputBuffer := by
  intro s h es hp hl hm hi
  have hlen : h.length < 2 ^ 32 := Nat.lt_of_le_of_lt hl hm
  refine ⟨_, run_loadInLines hp hl hi, readRange_writeRange _ _ 0 h, Nat.mod_eq_of_lt hlen, fun off ho => ?_, rfl⟩
  exact Memory.read_writeRange_other _ _ h (.inr (by rwa [Nat.zero_add]))

end Sys2Proof.Machine
end

section
/-! The arithmetic of GF(2^8) and the S-boxes (spec/41 R101 to R103): the product is linear in each factor, so an
identity between products of bytes holds when it holds on the powers of `x`. -/

namespace Sys2Proof.Machine

/-! ## The product is linear in each factor -/

theorem ite_bit_xor (p q : Bool) (a : Byte) : (if (p ^^ q) = true then a else 0#8) =
    (if p = true then a else 0#8) ^^^ (if q = true then a else 0#8) := by
  cases p <;> cases q <;> simp

theorem xtime_xor (a b : Byte) : xtime (a ^^^ b) = xtime a ^^^ xtime b := by
  rw [xtime, BitVec.getLsbD_xor, ite_bit_xor, BitVec.shiftLeft_xor_distrib, xtime, xtime]
  ac_rfl

theorem gmulBits_zero_left (n : Nat) (b : Byte) : gmulBits n 0#8 b = 0#8 := by
  induction n generalizing b with
  | zero => rfl
  | succ n ih => rw [gmulBits, show xtime 0#8 = 0#8 from rfl, ih, ite_self, BitVec.xor_zero]

theorem gmulBits_zero_right (n : Nat) (a : Byte) : gmulBits n a 0#8 = 0#8 := by
  induction n generalizing a with
  | zero => rfl
  | succ n ih => simp [gmulBits, ih]

theorem gmulBits_xor_left (n : Nat) (a b c : Byte) :
    gmulBits n (a ^^^ b) c = gmulBits n a c ^^^ gmulBits n b c := by
  induction n generalizing a b c with
  | zero => simp [gmulBits]
  | succ n ih =>
    rw [gmulBits, gmulBits, gmulBits, xtime_xor, ih]
    split
    · ac_rfl
    · simp only [BitVec.zero_xor]

theorem gmulBits_xor_right (n : Nat) (a b c : Byte) :
    gmulBits n a (b ^^^ c) = gmulBits n a b ^^^ gmulBits n a c := by
  induction n generalizing a b c with
  | zero => simp [gmulBits]
  | succ n ih =>
    rw [gmulBits, gmulBits, gmulBits, BitVec.getLsbD_xor, ite_bit_xor, BitVec.ushiftRight_xor_distrib, ih]
    ac_rfl

@[simp] theorem gmul_zero_left (b : Byte) : gmul 0#8 b = 0#8 := gmulBits_zero_left 8 b

@[simp] theorem gmul_zero_right (a : Byte) : gmul a 0#8 = 0#8 := gmulBits_zero_right 8 a

@[simp] theorem gmul_one_left (b : Byte) : gmul 1#8 b = b := by decide +kernel +revert

theorem gmul_xor_left (a b c : Byte) : gmul (a ^^^ b) c = gmul a c ^^^ gmul b c := gmulBits_xor_left 8 a b c

theorem gmul_xor_right (a b c : Byte) : gmul a (b ^^^ c) = gmul a b ^^^ gmul a c := gmulBits_xor_right 8 a b c

/-! ## Associativity -/

/-- Every byte is a sum of powers of `x`: a property that addition keeps need only hold of zero and of the powers. -/
theorem byte_induction {P : Byte → Prop} (zero : P 0#8) (xor : ∀ a b, P a → P b → P (a ^^^ b))
    (power : ∀ i < 8, P (xtimePower i)) (a : Byte) : P a := by
  have key (n i : Nat) (b : Byte) (h : i + n ≤ 8) : P (gmulBits n (xtimePower i) b) := by
    induction n generalizing i b with
    | zero => exact zero
    | succ n ih =>
      refine xor _ _ ?_ (ih (i + 1) _ (by omega))
      split
      · exact power i (by omega)
      · exact zero
  have ha : P (gmul 1#8 a) := key 8 0 a (Nat.le_refl 8)
  rwa [gmul_one_left] at ha

theorem gmul_gmul (a b c : Byte) : gmul a (gmul b c) = gmul (gmul a b) c := by
  induction a using byte_induction with
  | zero => simp
  | xor a a' ha ha' => simp only [gmul_xor_left, ha, ha']
  | power i hi =>
    induction b using byte_induction with
    | zero => simp
    | xor b b' hb hb' => simp only [gmul_xor_left, gmul_xor_right, hb, hb']
    | power j hj =>
      induction c using byte_induction with
      | zero => simp
      | xor c c' hc hc' => simp only [gmul_xor_right, hc, hc']
      | power k hk =>
        have hpow : ∀ i < 8, ∀ j < 8, ∀ k < 8, gmul (xtimePower i) (gmul (xtimePower j) (xtimePower k)) =
          gmul (gmul (xtimePower i) (xtimePower j)) (xtimePower k) := by decide +kernel
        exact hpow i hi j hj k hk

/-! ## The S-boxes -/

@[simp] theorem invSbox_sbox (a : Byte) : invSbox (sbox a) = a := by decide +kernel +revert

/-- `SBOX` is one to one on the finitely many bytes, so its left inverse is its inverse. -/
@[simp] theorem sbox_invSbox (a : Byte) : sbox (invSbox a) = a := by
  have hleft : Function.LeftInverse invSbox sbox := invSbox_sbox
  exact hleft.rightInverse_of_surjective (Finite.surjective_of_injective hleft.injective) a

/-- The inverse of the affine map of R102. -/
def sboxAffineInv (b : Byte) : Byte := b.rotateLeft 1 ^^^ b.rotateLeft 3 ^^^ b.rotateLeft 6 ^^^ 0x05#8

theorem sboxAffine_sboxAffineInv (b : Byte) : sboxAffine (sboxAffineInv b) = b := by decide +kernel +revert

/-- The byte whose affine image is `SBOX[a]`: the inverse of `a` in the field, and 0 for 0 (R102). -/
def fieldInverse (a : Byte) : Byte := sboxAffineInv (sbox a)

theorem fieldInverse_zero : fieldInverse 0#8 = 0#8 := by decide

theorem gmul_fieldInverse {a : Byte} (h : a ≠ 0#8) : gmul a (fieldInverse a) = 1#8 := by decide +kernel +revert

theorem sbox_eq_sboxAffine_fieldInverse (a : Byte) : sbox a = sboxAffine (fieldInverse a) :=
  (sboxAffine_sboxAffineInv (sbox a)).symm

/-- Settles O47: the inverse of a byte is what the affine map turns into its entry of the table. -/
theorem sBoxIsAffineOfInverse : Obligations.SBoxIsAffineOfInverse :=
  ⟨fun a => ⟨fieldInverse a, fun h => h ▸ fieldInverse_zero, gmul_fieldInverse, sbox_eq_sboxAffine_fieldInverse a⟩,
    fun a => ⟨invSbox_sbox a, sbox_invSbox a⟩⟩

end Sys2Proof.Machine
end

section
/-! The inverse law of the block cipher (spec/41 R104 to R107, R111 to R113): each transformation is undone by its
inverse, and the rounds of `D` undo those of `E` in the opposite order. -/

namespace Sys2Proof.Machine

/-! ## The transformations -/

@[simp] theorem invSubBytes_subBytes (s : Block) : invSubBytes (subBytes s) = s := by
  simp [invSubBytes, subBytes, subWord, mapColumns, mapWord]

@[simp] theorem subBytes_invSubBytes (s : Block) : subBytes (invSubBytes s) = s := by
  simp [invSubBytes, subBytes, subWord, mapColumns, mapWord]

@[simp] theorem invShiftRows_shiftRows (s : Block) : invShiftRows (shiftRows s) = s := rfl

@[simp] theorem shiftRows_invShiftRows (s : Block) : shiftRows (invShiftRows s) = s := rfl

@[simp] theorem addRoundKey_addRoundKey (s k : Block) : addRoundKey (addRoundKey s k) k = s :=
  Block.xor_xor_cancel s k

/-! ## The columns: `MixColumns` and `InvMixColumns` are products with circulant matrices (R106) -/

/-- The product of a column with the circulant matrix whose first row is `c`. -/
def circulantMul (c w : Word) : Word :=
  ⟨gmul c.b0 w.b0 ^^^ gmul c.b1 w.b1 ^^^ gmul c.b2 w.b2 ^^^ gmul c.b3 w.b3,
   gmul c.b3 w.b0 ^^^ gmul c.b0 w.b1 ^^^ gmul c.b1 w.b2 ^^^ gmul c.b2 w.b3,
   gmul c.b2 w.b0 ^^^ gmul c.b3 w.b1 ^^^ gmul c.b0 w.b2 ^^^ gmul c.b1 w.b3,
   gmul c.b1 w.b0 ^^^ gmul c.b2 w.b1 ^^^ gmul c.b3 w.b2 ^^^ gmul c.b0 w.b3⟩

/-- The first row of the product of the circulant matrices with first rows `c` and `d`. -/
def circulantConv (c d : Word) : Word :=
  ⟨gmul c.b0 d.b0 ^^^ gmul c.b1 d.b3 ^^^ gmul c.b2 d.b2 ^^^ gmul c.b3 d.b1,
   gmul c.b0 d.b1 ^^^ gmul c.b1 d.b0 ^^^ gmul c.b2 d.b3 ^^^ gmul c.b3 d.b2,
   gmul c.b0 d.b2 ^^^ gmul c.b1 d.b1 ^^^ gmul c.b2 d.b0 ^^^ gmul c.b3 d.b3,
   gmul c.b0 d.b3 ^^^ gmul c.b1 d.b2 ^^^ gmul c.b2 d.b1 ^^^ gmul c.b3 d.b0⟩

theorem circulantMul_circulantMul (c d w : Word) :
    circulantMul c (circulantMul d w) = circulantMul (circulantConv c d) w := by
  simp only [circulantMul, circulantConv, gmul_xor_left, gmul_xor_right, gmul_gmul, Word.mk.injEq]
  refine ⟨?_, ?_, ?_, ?_⟩ <;> ac_rfl

theorem circulantMul_one (w : Word) : circulantMul ⟨1#8, 0#8, 0#8, 0#8⟩ w = w := by simp [circulantMul]

theorem mixColumn_eq (w : Word) : mixColumn w = circulantMul ⟨2#8, 3#8, 1#8, 1#8⟩ w := by
  simp [mixColumn, circulantMul]

theorem invMixColumn_eq (w : Word) : invMixColumn w = circulantMul ⟨0x0e#8, 0x0b#8, 0x0d#8, 0x09#8⟩ w := rfl

@[simp] theorem invMixColumn_mixColumn (w : Word) : invMixColumn (mixColumn w) = w := by
  have hconv : circulantConv ⟨0x0e#8, 0x0b#8, 0x0d#8, 0x09#8⟩ ⟨2#8, 3#8, 1#8, 1#8⟩ = ⟨1#8, 0#8, 0#8, 0#8⟩ := by decide
  rw [mixColumn_eq, invMixColumn_eq, circulantMul_circulantMul, hconv, circulantMul_one]

@[simp] theorem mixColumn_invMixColumn (w : Word) : mixColumn (invMixColumn w) = w := by
  have hconv : circulantConv ⟨2#8, 3#8, 1#8, 1#8⟩ ⟨0x0e#8, 0x0b#8, 0x0d#8, 0x09#8⟩ = ⟨1#8, 0#8, 0#8, 0#8⟩ := by decide
  rw [mixColumn_eq, invMixColumn_eq, circulantMul_circulantMul, hconv, circulantMul_one]

@[simp] theorem invMixColumns_mixColumns (s : Block) : invMixColumns (mixColumns s) = s := by
  simp [invMixColumns, mixColumns, mapColumns]

@[simp] theorem mixColumns_invMixColumns (s : Block) : mixColumns (invMixColumns s) = s := by
  simp [invMixColumns, mixColumns, mapColumns]

/-! ## The rounds -/

/-- A round of `D` undoes the round of `E` before it, up to the byte substitution and row shift that each round of `D`
begins with. -/
theorem decRound_encRound (rk : Vector Block 15) (s : Block) (r : Nat) :
    decRound rk (shiftRows (subBytes (encRound rk s r))) r = shiftRows (subBytes s) := by
  simp [decRound, encRound]

theorem encRound_decRound (rk : Vector Block 15) (s : Block) (r : Nat) :
    encRound rk (invSubBytes (invShiftRows (decRound rk s r))) r = invSubBytes (invShiftRows s) := by
  simp [decRound, encRound]

/-- If each step of `g` undoes one of `f` up to `u`, the steps of `g` in the opposite order undo those of `f`. -/
theorem foldl_reverse_undo {α β : Type} {f g : α → β → α} {u : α → α} (h : ∀ s r, g (u (f s r)) r = u s)
    (rs : List β) (s : α) : rs.reverse.foldl g (u (rs.foldl f s)) = u s := by
  induction rs generalizing s with
  | nil => rfl
  | cons r rs ih => 
    rw [List.reverse_cons, List.foldl_append, List.foldl_cons, List.foldl_nil, List.foldl_cons, ih, h]

theorem decRounds_encRounds (rk : Vector Block 15) (rs : List Nat) (s : Block) :
    rs.reverse.foldl (decRound rk) (shiftRows (subBytes (rs.foldl (encRound rk) s))) = shiftRows (subBytes s) :=
  foldl_reverse_undo (u := fun s => shiftRows (subBytes s)) (decRound_encRound rk) rs s

theorem encRounds_decRounds (rk : Vector Block 15) (rs : List Nat) (s : Block) :
    rs.foldl (encRound rk) (invSubBytes (invShiftRows (rs.reverse.foldl (decRound rk) s))) =
      invSubBytes (invShiftRows s) := by
  simpa using foldl_reverse_undo (u := fun s => invSubBytes (invShiftRows s)) (encRound_decRound rk) rs.reverse s

@[simp] theorem decryptBlock_encryptBlock (v : KeyVariant) (rk : Vector Block 15) (b : Block) :
    decryptBlock v rk (encryptBlock v rk b) = b := by
  rw [decryptBlock, encryptBlock, addRoundKey_addRoundKey, decRounds_encRounds, invShiftRows_shiftRows,
    invSubBytes_subBytes, addRoundKey_addRoundKey]

@[simp] theorem encryptBlock_decryptBlock (v : KeyVariant) (rk : Vector Block 15) (b : Block) :
    encryptBlock v rk (decryptBlock v rk b) = b := by
  rw [decryptBlock, encryptBlock, addRoundKey_addRoundKey, encRounds_decRounds, subBytes_invSubBytes,
    shiftRows_invShiftRows, addRoundKey_addRoundKey]

/-- Settles O45: the rounds undo one another, whatever the round keys. -/
theorem inverseCipherUndoesCipher : Obligations.InverseCipherUndoesCipher :=
  fun v rk b => ⟨decryptBlock_encryptBlock v rk b, encryptBlock_decryptBlock v rk b⟩

end Sys2Proof.Machine
end

section
/-! The key schedule (spec/41 R109): the words of the key come first, every word added later meets the recurrence, and
four words make a round key. -/

namespace Sys2Proof.Machine

/-! ## The recurrence -/

/-- The recurrence of R109 on the words in order: each word from index `nk` on is the word `nk` before it combined with
the transformed previous word. -/
def MeetsRecurrence (nk : Nat) (ws : List Word) : Prop :=
  ∀ i w t, nk ≤ i → i < ws.length → ws[i - nk]? = some w → ws[i - 1]? = some t →
    ws[i]? = some (w.xor (scheduleCore nk i t))

/-- One more word by the recurrence keeps it. -/
theorem MeetsRecurrence.append {nk : Nat} {ws : List Word} {w t : Word} (hws : MeetsRecurrence nk ws) (h0 : 0 < nk)
    (hw : ws[ws.length - nk]? = some w) (ht : ws[ws.length - 1]? = some t) :
    MeetsRecurrence nk (ws ++ [w.xor (scheduleCore nk ws.length t)]) := by
  intro i w' t' hi hlen hw' ht'
  rw [List.length_append, List.length_singleton] at hlen
  rw [List.getElem?_append_left (by omega)] at hw' ht'
  obtain h | rfl : i < ws.length ∨ i = ws.length := by omega
  · rw [List.getElem?_append_left h]
    exact hws i w' t' hi h hw' ht'
  · cases hw.symm.trans hw'
    cases ht.symm.trans ht'
    exact List.getElem?_concat_length

/-- Entry `j` from the end of the words in order, by the words latest first. -/
theorem getElem?_reverse_length_sub {ws : List Word} {j : Nat} (h0 : 0 < j) (h : j ≤ ws.length) :
    ws.reverse[ws.length - j]? = some (ws.getD (j - 1) .zero) := by
  rw [List.getElem?_reverse (by omega), List.getD_eq_getElem _ _ (by omega), List.getElem?_eq_getElem (by omega)]
  congr 2
  omega

theorem expandWords_meetsRecurrence {nk : Nat} (h0 : 0 < nk) (n : Nat) {ws : List Word} (hn : nk ≤ ws.length)
    (hws : MeetsRecurrence nk ws.reverse) : MeetsRecurrence nk (expandWords nk n ws.length ws).reverse := by
  induction n generalizing ws with
  | zero => exact hws
  | succ n ih =>
    refine ih (ws := _ :: ws) (Nat.le_succ_of_le hn) ?_
    have hlen := ws.length_reverse
    have hnext := hws.append h0 (hlen ▸ getElem?_reverse_length_sub h0 hn)
      (hlen ▸ getElem?_reverse_length_sub Nat.one_pos (Nat.le_trans h0 hn))
    rwa [List.reverse_cons, ← hlen]

theorem expandWords_suffix (nk n i : Nat) (ws : List Word) : ws <:+ expandWords nk n i ws := by
  induction n generalizing i ws with
  | zero => exact List.suffix_rfl
  | succ n ih => exact (List.suffix_cons _ ws).trans (ih _ _)

/-! ## The words of the key -/

theorem wordOfBytes_drop (bs : List Byte) (j : Nat) :
    wordOfBytes (bs.drop j) = ⟨bs.getD j 0#8, bs.getD (j + 1) 0#8, bs.getD (j + 2) 0#8, bs.getD (j + 3) 0#8⟩ := by
  simp [wordOfBytes, List.getD_eq_getElem?_getD]

theorem keyWords_getElem? {n i : Nat} (bs : List Byte) (h : i < n) :
    (keyWords n bs)[i]? = some (wordOfBytes (bs.drop (4 * i))) := by
  induction n generalizing i bs with
  | zero => omega
  | succ n ih =>
    cases i with
    | zero => rfl
    | succ i =>
      rw [keyWords, List.getElem?_cons_succ, ih _ (by omega), List.drop_drop, Nat.mul_succ, Nat.add_comm]

theorem keyWords_prefix_scheduleWords (v : KeyVariant) (k : List Byte) :
    keyWords v.words k <+: scheduleWords v k := by
  have hsuffix := expandWords_suffix v.words (4 * (v.rounds + 1) - v.words) v.words (keyWords v.words k).reverse
  rwa [← List.reverse_prefix, List.reverse_reverse] at hsuffix

theorem scheduleWords_getElem?_key {v : KeyVariant} (k : List Byte) {i : Nat} (h : i < v.words) :
    (scheduleWords v k)[i]? = some (wordOfBytes (k.drop (4 * i))) := by
  obtain ⟨later, hlater⟩ := keyWords_prefix_scheduleWords v k
  rw [← hlater, List.getElem?_append_left (by rwa [keyWords_length]), keyWords_getElem? k h]

theorem scheduleWords_meetsRecurrence {v : KeyVariant} (k : List Byte) :
    MeetsRecurrence v.words (scheduleWords v k) := by
  have hlen : (keyWords v.words k).reverse.length = v.words := by rw [List.length_reverse, keyWords_length]
  have hkey : MeetsRecurrence v.words (keyWords v.words k) := by
    intro i w t hi hlt
    rw [keyWords_length] at hlt
    omega
  have h := expandWords_meetsRecurrence (nk := v.words) (by cases v <;> decide) (4 * (v.rounds + 1) - v.words)
    hlen.ge (by rwa [List.reverse_reverse])
  rwa [hlen] at h

/-! ## The round keys -/

theorem groupWords_getElem? {ws : List Word} {r : Nat} {a b c d : Word} (ha : ws[4 * r]? = some a)
    (hb : ws[4 * r + 1]? = some b) (hc : ws[4 * r + 2]? = some c) (hd : ws[4 * r + 3]? = some d) :
    (groupWords ws)[r]? = some ⟨a, b, c, d⟩ := by
  induction r generalizing ws with
  | zero =>
    match ws with
    | _ :: _ :: _ :: _ :: _ => simp_all [groupWords]
    | [] | [_] | [_, _] | [_, _, _] => simp at hd
  | succ r ih =>
    match ws with
    | _ :: _ :: _ :: _ :: ws => exact ih ha hb hc hd
    | [] | [_] | [_, _] | [_, _, _] => simp [Nat.mul_succ] at hd

/-- Settles O46: the words of the key, the recurrence, and the words of a round key. -/
theorem keyScheduleRecurrence : Obligations.KeyScheduleRecurrence := by
  intro v k _
  refine ⟨scheduleWords_length v k, fun i hi => ?_, fun i w t hi hlt => ?_, keyExpansion_length v k,
    fun r a b c d => groupWords_getElem?⟩
  · rw [scheduleWords_getElem?_key k hi, wordOfBytes_drop]
  · exact scheduleWords_meetsRecurrence k i w t hi (by rwa [scheduleWords_length])

end Sys2Proof.Machine
end

section
/-! The published vectors of the cipher (spec/95, section 2): one evaluation for each key size, and one of `D`. -/

namespace Sys2Proof.Machine

/-- Settles O48: each vector by evaluating the cipher. -/
theorem cipherMatchesPublishedVectors : Obligations.CipherMatchesPublishedVectors := by
  unfold Obligations.CipherMatchesPublishedVectors
  refine ⟨?_, ?_, ?_, ?_⟩ <;> decide +kernel

end Sys2Proof.Machine
end

section
/-! CONSTRUCT (spec/42 R131 to R135): the two engine steps, what no step writes, and the whole command from the host's
write of its word. -/

namespace Sys2Proof.Machine

/-! ## The legal key lengths and the key bytes -/

@[simp] theorem variantOf_words (v : KeyVariant) : variantOf (4 * v.words) = some v := by cases v <;> rfl

theorem exists_words_of_legal {n : Nat} (h : n = 16 ∨ n = 24 ∨ n = 32) : ∃ v : KeyVariant, n = 4 * v.words := by
  obtain rfl | rfl | rfl := h
  · exact ⟨.aes128, rfl⟩
  · exact ⟨.aes192, rfl⟩
  · exact ⟨.aes256, rfl⟩

theorem variantOf_of_illegal {n : Nat} (h16 : n ≠ 16) (h24 : n ≠ 24) (h32 : n ≠ 32) : variantOf n = none := by
  rw [variantOf, if_neg h16, if_neg h24, if_neg h32]

theorem keyBytes_getElem? {s : State} {n j : Nat} {b : Byte} (hj : j < n) (hb : s.load .key j = some b) :
    (s.keyBytes n)[j]? = some b := by
  simp [State.keyBytes, hj, hb]

/-! ## The two engine steps -/

/-- The state at `K_INIT` once KEYLEN is latched and the old cipher discarded (R131). -/
def State.keyLatched (s : State) : State :=
  { s with klen := s.keylen.toNat, keyed := false, rk := .replicate 15 .zero }

/-- The state after `K_EXPAND` has bound the key schedule of a key of the variant (R132). -/
def State.keyBound (v : KeyVariant) (s : State) : State :=
  finish { s with nk := v, rk := loadSchedule s.rk (keyExpansion v (s.keyBytes s.klen)), keyed := true }

theorem exec_construct_kInit {s : State} (hp : s.phase = .kInit) : exec .construct s = .next (constructInit s) := by
  simp only [exec, execConstruct, hp]

theorem exec_construct_kExpand {s : State} (hp : s.phase = .kExpand) : exec .construct s = constructExpand s := by
  simp only [exec, execConstruct, hp]

theorem constructInit_of_legal {s : State} {v : KeyVariant} (hv : s.keylen.toNat = 4 * v.words) :
    constructInit s = { s.keyLatched with phase := .kExpand } := by
  simp only [constructInit, hv, variantOf_words, State.keyLatched]

theorem constructInit_of_illegal {s : State} (hv : variantOf s.keylen.toNat = none) :
    constructInit s = raise .invalidKeySize s.keyLatched := by
  simp only [constructInit, hv, State.keyLatched]

theorem constructExpand_of_legal {s : State} {v : KeyVariant} (hv : s.klen = 4 * v.words) :
    constructExpand s = .next (s.keyBound v) := by
  simp only [constructExpand, hv, variantOf_words, State.keyBound]

/-- The round keys bound are KeyExpansion of the key bytes. -/
theorem schedule_keyBound (v : KeyVariant) (s : State) :
    schedule v (s.keyBound v).rk = keyExpansion v (s.keyBytes s.klen) :=
  schedule_loadSchedule s.rk (keyExpansion_length v _)

/-- Settles O18: a legal length selects a variant, an illegal one none. -/
theorem constructChecksKeyLength : Obligations.ConstructChecksKeyLength := by
  intro s hp
  rw [exec_construct_kInit hp]
  refine ⟨fun hl => ?_, fun h16 h24 h32 => ⟨[], ?_⟩⟩
  · obtain ⟨v, hv⟩ := exists_words_of_legal hl
    exact congrArg Host.Outcome.next (constructInit_of_legal hv)
  · exact congrArg Host.Outcome.next (constructInit_of_illegal (variantOf_of_illegal h16 h24 h32))

/-- Settles O19: the state that `K_EXPAND` leaves, its round keys, and the key bytes they come from. -/
theorem constructBindsSchedule : Obligations.ConstructBindsSchedule := fun s v hp hv =>
  ⟨s.keyBound v, (exec_construct_kExpand hp).trans (constructExpand_of_legal hv), schedule_keyBound v s,
    keyBytes_length s s.klen, fun _ _ => keyBytes_getElem?, rfl⟩

/-! ## The frame -/

/-- What CONSTRUCT can answer: its issue, the moves of its two phases, and nothing while another command is in
flight. -/
theorem exec_construct_next {s t : State} (h : exec .construct s = .next t) :
    t = issue .kInit s ∨ t = raise .invalidKeySize s.keyLatched ∨ t = { s.keyLatched with phase := .kExpand } ∨
      (∃ v, t = s.keyBound v) ∨ t = s := by
  cases hp : s.phase <;> simp only [exec, execConstruct, hp] at h
  case idle => cases h; exact .inl rfl
  case kInit =>
    cases h
    cases hv : variantOf s.keylen.toNat with
    | none => exact .inr (.inl (constructInit_of_illegal hv))
    | some v => exact .inr (.inr (.inl (constructInit_of_legal (variantOf_some hv))))
  case kExpand =>
    obtain ⟨v, -, ht⟩ := constructExpand_next h
    exact .inr (.inr (.inr (.inl ⟨v, ht⟩)))
  all_goals cases h; exact .inr (.inr (.inr (.inr rfl)))

/-- Settles O20: each answer of CONSTRUCT writes registers and at most empties OUT, so the bytes of the other spaces
stay. -/
theorem constructFrame : Obligations.ConstructFrame := by
  intro s t h
  have hbytes (hk : t.key = s.key) (hi : t.inBuf = s.inBuf) (hw : t.work = s.work) (r : Region) (off : Nat)
      (hr : r ≠ .outBuf) : t.load r off = s.load r off := by
    refine load_congr ?_ off
    cases r
    case key => exact hk
    case inBuf => exact hi
    case outBuf => exact absurd rfl hr
    case work => exact hw
  obtain rfl | rfl | rfl | ⟨v, rfl⟩ | rfl := exec_construct_next h
  · exact ⟨rfl, .inr rfl, .inl rfl, hbytes rfl rfl rfl⟩
  · exact ⟨rfl, .inr rfl, .inr rfl, hbytes rfl rfl rfl⟩
  · exact ⟨rfl, .inl rfl, .inl rfl, hbytes rfl rfl rfl⟩
  · exact ⟨rfl, .inl rfl, .inl rfl, hbytes rfl rfl rfl⟩
  · exact ⟨rfl, .inl rfl, .inl rfl, fun _ _ _ => rfl⟩

/-! ## The whole command -/

/-- STATUS after a command that ended well in a keyed engine. -/
theorem statusWord_finish {s : State} (hk : s.keyed = true) (he : s.err = none) :
    statusWord (finish s) = 0x0000000a#32 := by
  simp [statusWord, State.errorFlag, State.busy, hk, he]

/-- STATUS after an error in an engine without a key. -/
theorem statusWord_raise_of_unkeyed {s : State} (k : ErrorKind) (hk : s.keyed = false) :
    statusWord (raise k s) = 0x00000006#32 := by
  simp [statusWord, State.errorFlag, State.busy, hk]

theorem errWord_raise (k : ErrorKind) (s : State) : errWord (raise k s) = 0#28 ++ k.code := rfl

/-- With nothing to come, a step runs the command in flight. -/
theorem step_of_command {s : State} {i : Instr} (hi : s.inputs = []) (hc : s.phase.command = some i) :
    step s = exec i s := (step_of_inputs_nil hi).trans (engineTurn_command hc)

/-- The state after the issue of CONSTRUCT with nothing else to come (R83). -/
def State.constructIssued (s : State) : State := issue .kInit { s with inputs := [] }

/-- The host's write of CONSTRUCT's word, then the engine step at `K_INIT`. -/
theorem run_construct_init {s : State} (k : Nat) (hp : s.phase = .idle)
    (hi : s.inputs = [.host (.wr 0 0x00000001#32)]) :
    Host.Core.run Sys2Proof.core (k + 2) s = Host.Core.run Sys2Proof.core k (constructInit s.constructIssued) := by
  have hissue : step s = .next s.constructIssued :=
    (step_cmdWrite hi hp decode_construct_word).trans (exec_eq_issue (s := { s with inputs := [] }) .construct hp)
  have hinit : step s.constructIssued = .next (constructInit s.constructIssued) :=
    (step_of_command rfl rfl).trans (exec_construct_kInit rfl)
  rw [run_core_of_step _ hissue, run_core_of_step _ hinit]

/-- With a legal length the command ends with the schedule bound, after two engine steps (R135 (a)). -/
theorem run_construct_of_legal {s : State} {v : KeyVariant} (hp : s.phase = .idle)
    (hi : s.inputs = [.host (.wr 0 0x00000001#32)]) (hv : s.keylen.toNat = 4 * v.words) :
    Host.Core.run Sys2Proof.core 3 s =
      .next (State.keyBound v { s.constructIssued.keyLatched with phase := .kExpand }) := by
  rw [run_construct_init 1 hp hi, constructInit_of_legal (s := s.constructIssued) hv]
  refine run_core_of_step 0 ((step_of_command rfl rfl).trans ?_)
  exact (exec_construct_kExpand rfl).trans (constructExpand_of_legal hv)

/-- With an illegal length it ends with the error, after one engine step (R135 (b)). -/
theorem run_construct_of_illegal {s : State} (hp : s.phase = .idle)
    (hi : s.inputs = [.host (.wr 0 0x00000001#32)]) (hv : variantOf s.keylen.toNat = none) :
    Host.Core.run Sys2Proof.core 2 s = .next (raise .invalidKeySize s.constructIssued.keyLatched) := by
  rw [run_construct_init 0 hp hi, constructInit_of_illegal (s := s.constructIssued) hv]
  rfl

/-- Settles O21: the state in which each of the two runs ends, and what its registers show. -/
theorem constructWholeCommand : Obligations.ConstructWholeCommand := by
  intro s hp hi
  refine ⟨fun v hv => ?_, fun h16 h24 h32 => ?_⟩
  · exact ⟨_, run_construct_of_legal hp hi hv, statusWord_finish rfl rfl, (errWord_eq_zero_iff _).mpr rfl, rfl, rfl,
      schedule_keyBound v _⟩
  · exact ⟨_, run_construct_of_illegal hp hi (variantOf_of_illegal h16 h24 h32), statusWord_raise_of_unkeyed _ rfl,
      (errWord_raise _ _).trans (by decide), rfl, rfl⟩

end Sys2Proof.Machine
end

section
/-! Blocks of a range (spec/20 R57, spec/43 R142, R146): a range that loads gives its parts and its blocks, and the
blocks of a byte sequence are those parts. -/

namespace Sys2Proof.Machine

/-! ## Parts of a range -/

/-- A part of a range that loads. -/
theorem loadRange_part {s : State} {r : Region} {a n i k : Nat} {bs : List Byte} (h : s.loadRange r a n = .ok bs)
    (hik : i + k ≤ n) : s.loadRange r (a + i) k = .ok ((bs.drop i).take k) := by
  obtain ⟨hl, hj⟩ := loadRange_ok h
  have hlen : ((bs.drop i).take k).length = k := by
    rw [List.length_take, List.length_drop]
    omega
  have hload : s.loadRange r (a + i) ((bs.drop i).take k).length = .ok ((bs.drop i).take k) := by
    refine loadRange_eq_ok fun j hlt => ?_
    rw [hlen] at hlt
    rw [Nat.add_assoc, hj _ (by omega), List.getElem?_take_of_lt hlt, List.getElem?_drop]
  rwa [hlen] at hload

theorem wordOfBytes_take {n : Nat} (bs : List Byte) (h : 4 ≤ n) : wordOfBytes (bs.take n) = wordOfBytes bs := by
  have hget (j : Nat) (hj : j < 4) : (bs.take n).getD j 0#8 = bs.getD j 0#8 := by
    rw [List.getD_eq_getElem?_getD, List.getElem?_take_of_lt (Nat.lt_of_lt_of_le hj h), List.getD_eq_getElem?_getD]
  simp only [wordOfBytes, hget 0, hget 1, hget 2, hget 3, Nat.reduceLT]

@[simp] theorem blockOfBytes_take (bs : List Byte) : blockOfBytes (bs.take 16) = blockOfBytes bs := by
  simp only [blockOfBytes, List.drop_take, wordOfBytes_take, Nat.reduceSub, Nat.reduceLeDiff]

/-- A block inside a range that loads. -/
theorem loadBlock_part {s : State} {r : Region} {a n i : Nat} {bs : List Byte} (h : s.loadRange r a n = .ok bs)
    (hi : i + 16 ≤ n) : s.loadBlock r (a + i) = .ok (blockOfBytes (bs.drop i)) := by
  rw [loadBlock_of_range (loadRange_part h hi), blockOfBytes_take]

/-- A block written to a space leaves the space's other bytes. -/
theorem load_of_writeBlock {s t : State} {r : Region} {a x : Nat} {b : Block}
    (h : t.region r = (s.region r).writeBlock (unlisted r) a b) (hx : x < a ∨ a + 16 ≤ x) :
    t.load r x = s.load r x := by
  rw [State.load, h, Memory.read_writeBlock_other _ _ b hx, State.load]

/-- A block written is the block loaded. -/
theorem loadBlock_of_writeBlock {t : State} {r : Region} {m : Memory} {a : Nat} {b : Block}
    (h : t.region r = m.writeBlock (unlisted r) a b) : t.loadBlock r a = .ok b := by
  have hr : t.loadRange r a 16 = .ok (blockBytes b) := by
    rw [State.loadRange, h]
    exact readRange_writeRange _ m a (blockBytes b)
  rw [loadBlock_of_range hr, blockOfBytes_blockBytes]

/-- Two ranges written one after the other. -/
theorem Memory.writeRange_append (d : Option Byte) (m : Memory) (a : Nat) (bs cs : List Byte) :
    Memory.writeRange d m a (bs ++ cs) = Memory.writeRange d (Memory.writeRange d m a bs) (a + bs.length) cs := by
  induction bs generalizing m a with
  | nil => rfl
  | cons b bs ih =>
    rw [List.cons_append, Memory.writeRange, ih, Memory.writeRange, List.length_cons, Nat.add_assoc,
      Nat.add_comm 1 bs.length]

/-! ## The blocks of a byte sequence -/

@[simp] theorem blocksOf_length (n : Nat) (bs : List Byte) : (blocksOf n bs).length = n := by
  induction n generalizing bs with
  | zero => rfl
  | succ n ih => rw [blocksOf, List.length_cons, ih]

theorem blocksOf_getElem? {n j : Nat} (bs : List Byte) (hj : j < n) :
    (blocksOf n bs)[j]? = some (blockOfBytes (bs.drop (16 * j))) := by
  induction n generalizing j bs with
  | zero => omega
  | succ n ih =>
    cases j with
    | zero => rfl
    | succ j => rw [blocksOf, List.getElem?_cons_succ, ih _ (by omega), List.drop_drop, Nat.mul_succ, Nat.add_comm]

/-- The blocks of a range that loads are the blocks the space holds. -/
theorem loadBlock_of_blocksOf {s : State} {r : Region} {n j : Nat} {bs : List Byte} {p : Block}
    (h : s.loadRange r 0 (16 * n) = .ok bs) (hp : (blocksOf n bs)[j]? = some p) :
    s.loadBlock r (16 * j) = .ok p := by
  have hj : j < n := by simpa using (List.getElem?_eq_some_iff.mp hp).1
  rw [blocksOf_getElem? bs hj, Option.some_inj] at hp
  have hb := loadBlock_part (i := 16 * j) h (by omega)
  rwa [Nat.zero_add, hp] at hb

@[simp] theorem bytesOf_length (ps : List Block) : (bytesOf ps).length = 16 * ps.length := by
  induction ps with
  | nil => rfl
  | cons p ps ih =>
    rw [bytesOf, List.flatMap_cons, List.length_append, blockBytes_length, ← bytesOf, ih, List.length_cons,
      Nat.mul_succ, Nat.add_comm]

/-! ## Padding -/

theorem ceil16_lt (x : Nat) : ceil16 x < x + 16 := by unfold ceil16; omega

theorem padded_getElem?_of_lt {bs : List Byte} {j : Nat} (h : j < bs.length) : (padded bs)[j]? = bs[j]? :=
  List.getElem?_append_left h

theorem padded_getElem?_of_ge {bs : List Byte} {j : Nat} (h : bs.length ≤ j) (hj : j < ceil16 bs.length) :
    (padded bs)[j]? = some 0#8 := by
  rw [padded, List.getElem?_append_right h, List.getElem?_replicate_of_lt (by omega)]

end Sys2Proof.Machine
end

section
/-! ENCRYPT step by step (spec/43 R140 to R145): the state that each phase leaves, and what no step writes. -/

namespace Sys2Proof.Machine

/-! ## The states that the phases leave -/

/-- The state once INLEN is latched (R141). -/
def State.lengthLatched (s : State) : State := { s with len := s.inlen.toNat }

/-- The state after `E_PAD` on the operand `bs`: padded in WORK, the request sent (R142). -/
def State.operandPadded (bs : List Byte) (s : State) : State :=
  { s with
    work := Memory.writeRange (unlisted .work) s.work 0 (padded bs)
    wlen := ceil16 s.len
    nblk := ceil16 s.len / 16
    rngPending := true
    rngReqs := s.rngReqs + 1
    phase := .eGenIv }

/-- The state after `E_GENIV` has taken the answer `ok(iv)` (R143). -/
def State.ivStored (iv : Block) (s : State) : State :=
  { s with
    outBuf := Memory.writeBlock (unlisted .outBuf) s.outBuf 0 iv
    rngPending := false
    ivreg := iv
    chain := iv
    idx := 1
    phase := .eChain }

/-- The state after `E_CHAIN` has chained the block `p` of WORK (R144). -/
def State.blockChained (p : Block) (s : State) : State :=
  { s with
    outBuf := Memory.writeBlock (unlisted .outBuf) s.outBuf (16 * s.idx) (encryptBlock s.nk s.rk (p.xor s.chain))
    chain := encryptBlock s.nk s.rk (p.xor s.chain)
    idx := s.idx + 1 }

theorem region_ivStored (iv : Block) (s : State) :
    (s.ivStored iv).region .outBuf = (s.region .outBuf).writeBlock (unlisted .outBuf) 0 iv := by
  simp only [State.region, State.ivStored]

theorem region_blockChained (p : Block) (s : State) : (s.blockChained p).region .outBuf =
    (s.region .outBuf).writeBlock (unlisted .outBuf) (16 * s.idx) (encryptBlock s.nk s.rk (p.xor s.chain)) := by
  simp only [State.region, State.blockChained]

/-! ## Each phase -/

theorem exec_encrypt_eInit {s : State} (hp : s.phase = .eInit) : exec .encrypt s = .next (encryptInit s) := by
  simp only [exec, execEncrypt, hp]

theorem exec_encrypt_ePad {s : State} (hp : s.phase = .ePad) : exec .encrypt s = encryptPad s := by
  simp only [exec, execEncrypt, hp]

theorem exec_encrypt_eGenIv {s : State} (hp : s.phase = .eGenIv) : exec .encrypt s = .next (encryptGenIv s) := by
  simp only [exec, execEncrypt, hp]

theorem exec_encrypt_eChain {s : State} (hp : s.phase = .eChain) : exec .encrypt s = encryptChain s := by
  simp only [exec, execEncrypt, hp]

theorem encryptInit_of_unkeyed {s : State} (hk : s.keyed = false) :
    encryptInit s = raise .notKeyed s.lengthLatched := if_pos hk

theorem encryptInit_of_tooLong {s : State} (hk : s.keyed = true) (hl : s.maxPt < s.inlen.toNat) :
    encryptInit s = raise .inputTooLong s.lengthLatched :=
  (if_neg (by simp [hk])).trans (if_pos hl)

theorem encryptInit_of_fits {s : State} (hk : s.keyed = true) (hl : s.inlen.toNat ≤ s.maxPt) :
    encryptInit s = { s.lengthLatched with phase := .ePad } :=
  (if_neg (by simp [hk])).trans (if_neg (Nat.not_lt_of_le hl))

theorem encryptPad_of_load {s : State} {bs : List Byte} (h : s.loadRange .inBuf 0 s.len = .ok bs) :
    encryptPad s = .next (s.operandPadded bs) := by
  rw [encryptPad, h]
  rfl

/-- While a request is outstanding its answer stands at the port of a source that answers (R143). -/
theorem answer_of_pending {s : State} (hr : s.rngPending = true) (hs : s.rngSilent = false) :
    s.answer = some (s.answerTo (s.rngReqs - 1)) := by
  simp [State.answer, hr, hs]

theorem encryptGenIv_of_ok {s : State} {iv : Block} (h : s.answer = some (.ok iv)) :
    encryptGenIv s = s.ivStored iv := by
  rw [encryptGenIv, h]
  rfl

theorem encryptGenIv_of_fail {s : State} (h : s.answer = some .fail) :
    encryptGenIv s = raise .randomness { s with rngPending := false } := by
  rw [encryptGenIv, h]

theorem encryptChain_of_block {s : State} {p : Block} (h1 : 1 ≤ s.idx) (hn : s.idx ≤ s.nblk)
    (hp : s.loadBlock .work (16 * (s.idx - 1)) = .ok p) : encryptChain s = .next (s.blockChained p) := by
  rw [encryptChain, if_neg (Nat.ne_of_gt h1), if_pos hn, encryptBlockStep, hp]
  rfl

theorem encryptChain_of_end {s : State} (hn : s.idx = s.nblk + 1) : encryptChain s = .next (encryptEnd s) := by
  rw [encryptChain, if_neg (by omega), if_neg (by omega), if_pos hn]

/-- OUTLEN after the end of the command, when the blob's length fits the register (R145, R151). -/
theorem outlen_encryptEnd {s : State} (h : 16 + s.wlen < 2 ^ 32) : (encryptEnd s).outlen.toNat = 16 + s.wlen :=
  Nat.mod_eq_of_lt h

/-! ## The obligations -/

/-- Settles O22: the two errors and the accepted operand, each in its own case of the checks. -/
theorem encryptChecksOperands : Obligations.EncryptChecksOperands := by
  intro s hp
  rw [exec_encrypt_eInit hp]
  exact ⟨fun hk => ⟨[], congrArg Host.Outcome.next (encryptInit_of_unkeyed hk)⟩,
    fun hk hl => ⟨[], congrArg Host.Outcome.next (encryptInit_of_tooLong hk hl)⟩,
    fun hk hl => congrArg Host.Outcome.next (encryptInit_of_fits hk hl)⟩

/-- The bytes of WORK after `E_PAD`: the padded operand, then what WORK held. -/
theorem load_work_operandPadded {s : State} {bs : List Byte} {j : Nat} (hj : j < ceil16 bs.length) :
    (s.operandPadded bs).load .work j = (padded bs)[j]? := by
  have h := Memory.read_writeRange_same none s.work (a := 0) (x := j) (padded bs) (by rwa [padded_length])
  rwa [Nat.zero_add] at h

theorem load_work_operandPadded_of_ge {s : State} {bs : List Byte} {j : Nat} (hj : ceil16 bs.length ≤ j) :
    (s.operandPadded bs).load .work j = s.load .work j :=
  Memory.read_writeRange_other none s.work (padded bs) (.inr (by rwa [padded_length, Nat.zero_add]))

/-- Settles O23: the padded operand byte by byte, and the bounds of the padded length. -/
theorem encryptPadsWithZeros : Obligations.EncryptPadsWithZeros := by
  intro s hp hw
  obtain ⟨bs, hbs⟩ := loadRange_of_written (s := s) (r := .inBuf) (a := 0) (n := s.len) (by simpa using hw)
  obtain ⟨hlen, hbyte⟩ := loadRange_ok hbs
  have hge := ceil16_ge s.len
  refine ⟨s.operandPadded bs, (exec_encrypt_ePad hp).trans (encryptPad_of_load hbs), fun j hj => ?_,
    fun j hj hlt => ?_, fun j hj => ?_, ceil16_mod _, hge, ceil16_lt _, rfl⟩
  · rw [load_work_operandPadded (by rw [hlen]; omega), padded_getElem?_of_lt (by rwa [hlen]), ← hbyte j hj,
      Nat.zero_add]
  · rw [load_work_operandPadded (by rwa [hlen]), padded_getElem?_of_ge (by rwa [hlen]) (by rwa [hlen])]
  · exact load_work_operandPadded_of_ge (by rwa [hlen])

/-- Settles O25: the answer at the port, taken as IV or as failure. -/
theorem encryptTakesIvOrFails : Obligations.EncryptTakesIvOrFails := by
  intro s hp hr hs
  have ha := answer_of_pending hr hs
  rw [exec_encrypt_eGenIv hp]
  refine ⟨fun iv hiv => ?_, fun hf => ?_⟩
  · rw [hiv] at ha
    refine ⟨s.ivStored iv, congrArg Host.Outcome.next (encryptGenIv_of_ok ha),
      loadBlock_of_writeBlock (region_ivStored iv s),
      fun x hx => load_of_writeBlock (region_ivStored iv s) (.inr hx), ?_⟩
    simp only [State.ivStored]
  · rw [hf] at ha
    exact congrArg Host.Outcome.next (encryptGenIv_of_fail ha)

/-- Settles O28: the block written, and the bytes of OUT around it. -/
theorem encryptChainsOneBlock : Obligations.EncryptChainsOneBlock := by
  intro s p hp h1 hn hb
  refine ⟨s.blockChained p, (exec_encrypt_eChain hp).trans (encryptChain_of_block h1 hn hb),
    loadBlock_of_writeBlock (region_blockChained p s), fun _ => load_of_writeBlock (region_blockChained p s), ?_⟩
  simp only [State.blockChained]

/-- Settles O29: the state at the end, whose length fits the register. -/
theorem encryptEndsWithBlobLength : Obligations.EncryptEndsWithBlobLength := fun s hp hn hl =>
  ⟨encryptEnd s, (exec_encrypt_eChain hp).trans (encryptChain_of_end hn), outlen_encryptEnd hl, rfl⟩

/-! ## The frame -/

/-- While another command is in flight the meaning of a command is nothing (R64, log 9). -/
theorem exec_of_other_in_flight {s : State} {i j : Instr} (hj : s.phase.command = some j) (hij : j ≠ i) :
    exec i s = .next s := by
  cases hp : s.phase <;> rw [hp] at hj <;> cases hj
  all_goals cases i <;> simp [exec, execConstruct, execEncrypt, execDecrypt, hp] at hij ⊢

theorem command_eq_none_iff (p : Phase) : p.command = none ↔ p = .idle := by cases p <;> simp [Phase.command]

/-- What a command can answer: its issue, a move of the engine while it is in flight, or nothing (log 9). -/
theorem exec_next {i : Instr} {s t : State} (h : exec i s = .next t) :
    t = issue (firstPhase i) s ∨ s.phase.command = some i ∧ EngineMove s t ∨ t = s := by
  cases hc : s.phase.command with
  | none =>
    rw [exec_eq_issue i ((command_eq_none_iff _).mp hc)] at h
    cases h
    exact .inl rfl
  | some j =>
    by_cases hij : j = i
    · subst hij
      exact .inr (.inl ⟨rfl, engineTurn_move ((engineTurn_command hc).trans h)⟩)
    · rw [exec_of_other_in_flight hc hij] at h
      cases h
      exact .inr (.inr rfl)

/-- What the engine writes outside CONSTRUCT: neither the cipher state, nor an operand, nor the environment but the
count of requests. -/
theorem EngineMove.frame {s t : State} (h : EngineMove s t) (hc : s.phase.command ≠ some .construct) :
    t = { s with
      phase := t.phase, done := t.done, err := t.err, outlen := t.outlen, outBuf := t.outBuf,
      rngPending := t.rngPending, rngReqs := t.rngReqs, len := t.len, ivreg := t.ivreg, chain := t.chain,
      nblk := t.nblk, idx := t.idx, work := t.work, wlen := t.wlen } := by
  cases h
  case keyRefused hp | keyAccepted hp _ | expand hp _ => simp [hp, Phase.command] at hc
  case pad | ivTaken | encBlock | decBlock => simp only
  all_goals rfl

/-- Settles O30: the issue and every move of ENCRYPT keep the operands and what the frame leaves out. -/
theorem encryptFrame : Obligations.EncryptFrame := by
  intro s t h
  have hbytes (hk : t.key = s.key) (hi : t.inBuf = s.inBuf) (r : Region) (off : Nat) (hr : r = .key ∨ r = .inBuf) :
      t.load r off = s.load r off := by
    obtain rfl | rfl := hr
    · exact load_congr (r := .key) hk off
    · exact load_congr (r := .inBuf) hi off
  obtain rfl | ⟨hc, hm⟩ | rfl := exec_next h
  · exact ⟨rfl, hbytes rfl rfl⟩
  · obtain ⟨hk, hi, -, -⟩ := hm.keeps_operands
    exact ⟨hm.frame (by simp [hc]), hbytes hk hi⟩
  · exact ⟨rfl, fun _ _ _ => rfl⟩

end Sys2Proof.Machine
end

section
/-! ENCRYPT as a whole command (spec/43 R146 to R148): the run from the host's write of its word, block by block to the
blob, or to one of the three errors. -/

namespace Sys2Proof.Machine

/-! ## The chain as one run -/

@[simp] theorem chainEncrypt_length (v : KeyVariant) (rk : Vector Block 15) (c : Block) (ps : List Block) :
    (chainEncrypt v rk c ps).length = ps.length := by
  induction ps generalizing c with
  | nil => rfl
  | cons p ps ih => rw [chainEncrypt, List.length_cons, ih, List.length_cons]

@[simp] theorem encBlob_length (v : KeyVariant) (rk : Vector Block 15) (p : List Byte) (iv : Block) :
    (encBlob v rk p iv).length = 16 + ceil16 p.length := by
  have hm := ceil16_mod p.length
  rw [encBlob, List.length_append, blockBytes_length, bytesOf_length, chainEncrypt_length, blocksOf_length]
  omega

/-- The state after `E_CHAIN` has chained the blocks `ps` one after the other. -/
def State.blocksChained (ps : List Block) (s : State) : State :=
  { s with
    outBuf :=
      Memory.writeRange (unlisted .outBuf) s.outBuf (16 * s.idx) (bytesOf (chainEncrypt s.nk s.rk s.chain ps))
    chain := (chainEncrypt s.nk s.rk s.chain ps).getLastD s.chain
    idx := s.idx + ps.length }

theorem blocksChained_cons (p : Block) (ps : List Block) (s : State) :
    s.blocksChained (p :: ps) = (s.blockChained p).blocksChained ps := by
  simp only [State.blocksChained, State.blockChained, chainEncrypt, bytesOf, List.flatMap_cons,
    Memory.writeRange_append, blockBytes_length, Memory.writeBlock, List.getLastD_cons, List.length_cons,
    Nat.mul_succ, Nat.add_assoc, Nat.add_comm 1]

/-- The steps at `E_CHAIN` for the blocks that WORK holds, a step a block (R144). -/
theorem run_encrypt_blocks {s : State} {ps : List Block} (k : Nat) (hp : s.phase = .eChain) (hi : s.inputs = [])
    (h1 : 1 ≤ s.idx) (hn : s.idx + ps.length = s.nblk + 1)
    (hw : ∀ j p, ps[j]? = some p → s.loadBlock .work (16 * (s.idx - 1 + j)) = .ok p) :
    Host.Core.run Sys2Proof.core (ps.length + k) s = Host.Core.run Sys2Proof.core k (s.blocksChained ps) := by
  induction ps generalizing s with
  | nil => rw [List.length_nil, Nat.zero_add]; rfl
  | cons p ps ih =>
    rw [List.length_cons] at hn ⊢
    have hstep : step s = .next (s.blockChained p) := by
      rw [step_of_command hi (i := .encrypt) (by rw [hp]; rfl), exec_encrypt_eChain hp]
      exact encryptChain_of_block h1 (by omega) (hw 0 p rfl)
    have hrest : ∀ j q, ps[j]? = some q →
        (s.blockChained p).loadBlock .work (16 * ((s.blockChained p).idx - 1 + j)) = .ok q := by
      intro j q hq
      have hb := hw (j + 1) q hq
      rwa [show s.idx - 1 + (j + 1) = s.idx + 1 - 1 + j by omega] at hb
    rw [Nat.add_right_comm, run_core_of_step _ hstep, blocksChained_cons]
    exact ih (s := s.blockChained p) hp hi (Nat.le_add_left 1 _) (by simp only [State.blockChained]; omega) hrest

/-! ## The run of the command -/

/-- The state after the issue of a command with nothing else to come (R83). -/
def State.issued (i : Instr) (s : State) : State := issue (firstPhase i) { s with inputs := [] }

/-- The host's write of a command's word in an idle engine with nothing else to come. -/
theorem run_cmdWrite {s : State} {v : Reg32} {i : Instr} (k : Nat) (hp : s.phase = .idle)
    (hi : s.inputs = [.host (.wr 0 v)]) (hd : decode v = .ok i) :
    Host.Core.run Sys2Proof.core (k + 1) s = Host.Core.run Sys2Proof.core k (s.issued i) :=
  run_core_of_step k ((step_cmdWrite hi hp hd).trans (exec_eq_issue (s := { s with inputs := [] }) i hp))

/-- The state in which ENCRYPT, with nothing else to come, has passed its checks (R141). -/
def State.encryptAccepted (s : State) : State := { (s.issued .encrypt).lengthLatched with phase := .ePad }

/-- The host's write of ENCRYPT's word, then the engine step at `E_INIT`. -/
theorem run_encrypt_init {s : State} (k : Nat) (hp : s.phase = .idle)
    (hi : s.inputs = [.host (.wr 0 0x00000002#32)]) :
    Host.Core.run Sys2Proof.core (k + 2) s = Host.Core.run Sys2Proof.core k (encryptInit (s.issued .encrypt)) := by
  rw [run_cmdWrite (k + 1) hp hi decode_encrypt_word]
  exact run_core_of_step k ((step_of_command rfl rfl).trans (exec_encrypt_eInit rfl))

/-- With an operand `p` that fits, three steps lead to `E_GENIV` and a fourth takes the answer. -/
theorem run_encrypt_genIv {s : State} {p : List Byte} (k : Nat) (hp : s.phase = .idle)
    (hi : s.inputs = [.host (.wr 0 0x00000002#32)]) (hk : s.keyed = true) (hl : s.inlen.toNat ≤ s.maxPt)
    (hload : s.loadRange .inBuf 0 s.inlen.toNat = .ok p) :
    Host.Core.run Sys2Proof.core (k + 4) s =
      Host.Core.run Sys2Proof.core k (encryptGenIv (s.encryptAccepted.operandPadded p)) := by
  have hpad : step s.encryptAccepted = .next (s.encryptAccepted.operandPadded p) :=
    (step_of_command rfl rfl).trans ((exec_encrypt_ePad rfl).trans (encryptPad_of_load hload))
  have hiv : step (s.encryptAccepted.operandPadded p) =
      .next (encryptGenIv (s.encryptAccepted.operandPadded p)) :=
    (step_of_command rfl rfl).trans (exec_encrypt_eGenIv rfl)
  have hinit : encryptInit (s.issued .encrypt) = s.encryptAccepted := encryptInit_of_fits hk hl
  rw [run_encrypt_init (k + 2) hp hi, hinit, run_core_of_step _ hpad, run_core_of_step _ hiv]

/-- The answer at `E_GENIV` is the one to the request that `E_PAD` sent (R143, log 4). -/
theorem answer_operandPadded {s : State} (p : List Byte) (hs : s.rngSilent = false) :
    (s.operandPadded p).answer = some (s.answerTo s.rngReqs) := answer_of_pending rfl hs

/-- The padded operand in WORK, as a range. -/
theorem loadRange_work_operandPadded (s : State) (p : List Byte) :
    (s.operandPadded p).loadRange .work 0 (ceil16 p.length) = .ok (padded p) := by
  rw [← padded_length]
  exact readRange_writeRange none s.work 0 (padded p)

/-- The state in which ENCRYPT of the operand `p` begins to chain, its IV `iv` taken. -/
def State.chainStart (p : List Byte) (iv : Block) (s : State) : State :=
  (s.encryptAccepted.operandPadded p).ivStored iv

theorem nblk_chainStart {s : State} {p : List Byte} (iv : Block) (hlen : p.length = s.inlen.toNat) :
    (s.chainStart p iv).nblk = ceil16 p.length / 16 := congrArg (ceil16 · / 16) hlen.symm

/-- The blocks of WORK when the chain starts are those of the padded operand. -/
theorem loadBlock_chainStart {s : State} {p : List Byte} (iv : Block) {j : Nat} {q : Block}
    (hq : (blocksOf (ceil16 p.length / 16) (padded p))[j]? = some q) :
    (s.chainStart p iv).loadBlock .work (16 * j) = .ok q := by
  refine loadBlock_of_blocksOf ?_ hq
  rw [Nat.mul_div_cancel' (Nat.dvd_of_mod_eq_zero (ceil16_mod p.length))]
  exact loadRange_work_operandPadded s.encryptAccepted p

/-- The state in which ENCRYPT of the operand `p` with the answer `ok(iv)` ends. -/
def State.encrypted (p : List Byte) (iv : Block) (s : State) : State :=
  encryptEnd ((s.chainStart p iv).blocksChained (blocksOf (ceil16 p.length / 16) (padded p)))

/-- The steps at `E_CHAIN`: a step a block, and the end (R144, R145). -/
theorem run_chainStart {s : State} {p : List Byte} (iv : Block) (hlen : p.length = s.inlen.toNat) :
    Host.Core.run Sys2Proof.core (ceil16 p.length / 16 + 1) (s.chainStart p iv) = .next (s.encrypted p iv) := by
  have hnblk := nblk_chainStart iv hlen
  have hblocks := run_encrypt_blocks (s := s.chainStart p iv) (ps := blocksOf (ceil16 p.length / 16) (padded p)) 1
    rfl rfl (Nat.le_refl 1) (by rw [hnblk, blocksOf_length]; exact Nat.add_comm _ _) fun j q hq => by
      have hb := loadBlock_chainStart (s := s) iv hq
      rwa [← Nat.zero_add j] at hb
  rw [blocksOf_length] at hblocks
  rw [hblocks]
  refine run_core_of_step 0 ((step_of_command rfl rfl).trans ((exec_encrypt_eChain rfl).trans ?_))
  refine encryptChain_of_end ?_
  simp only [State.blocksChained, blocksOf_length, hnblk]
  exact Nat.add_comm _ _

/-- The whole command: four steps to the IV, then the chain (R146, R147). -/
theorem run_encrypt {s : State} {p : List Byte} {iv : Block} (hp : s.phase = .idle)
    (hi : s.inputs = [.host (.wr 0 0x00000002#32)]) (hk : s.keyed = true) (hl : s.inlen.toNat ≤ s.maxPt)
    (hload : s.loadRange .inBuf 0 s.inlen.toNat = .ok p) (hs : s.rngSilent = false)
    (ha : s.answerTo s.rngReqs = .ok iv) :
    Host.Core.run Sys2Proof.core (ceil16 p.length / 16 + 1 + 4) s = .next (s.encrypted p iv) := by
  have hanswer : (s.encryptAccepted.operandPadded p).answer = some (.ok iv) :=
    (answer_operandPadded (s := s.encryptAccepted) p hs).trans (congrArg some ha)
  rw [run_encrypt_genIv _ hp hi hk hl hload, encryptGenIv_of_ok hanswer]
  exact run_chainStart iv (loadRange_ok hload).1

/-- OUT at the end of the command is the blob: the IV written first, then the chained blocks (R146). -/
theorem outBuf_encrypted (s : State) (p : List Byte) (iv : Block) :
    (s.encrypted p iv).outBuf = Memory.writeRange (unlisted .outBuf) [] 0 (encBlob s.nk s.rk p iv) := by
  rw [encBlob, Memory.writeRange_append]
  simp only [State.encrypted, encryptEnd, finish_outBuf, State.blocksChained, State.chainStart, State.ivStored,
    State.operandPadded, State.encryptAccepted, State.lengthLatched, State.issued, issue_nk, issue_rk, issue_outBuf,
    Memory.writeBlock, blockBytes_length]

/-- OUTLEN at the end of the command is the blob's length (R145, R147). -/
theorem outlen_encrypted {s : State} (p : List Byte) (iv : Block) (h : 16 + ceil16 s.inlen.toNat < 2 ^ 32) :
    (s.encrypted p iv).outlen.toNat = 16 + ceil16 s.inlen.toNat := outlen_encryptEnd h

/-- The registers that ENCRYPT keeps, and ERR, at the end of the command (R140, R147). -/
theorem encrypted_keeps (s : State) (p : List Byte) (iv : Block) :
    (s.encrypted p iv).keyed = s.keyed ∧ (s.encrypted p iv).err = none ∧
    (s.encrypted p iv).nk = s.nk ∧ (s.encrypted p iv).rk = s.rk ∧ (s.encrypted p iv).inBuf = s.inBuf ∧
    (s.encrypted p iv).key = s.key ∧ (s.encrypted p iv).keylen = s.keylen ∧ (s.encrypted p iv).inlen = s.inlen := by
  simp [State.encrypted, encryptEnd, State.blocksChained, State.chainStart, State.ivStored, State.operandPadded,
    State.encryptAccepted, State.lengthLatched, State.issued]

/-- STATUS of an idle keyed engine whose last command ended well. -/
theorem statusWord_of_done {s : State} (hp : s.phase = .idle) (hd : s.done = true) (he : s.err = none)
    (hk : s.keyed = true) : statusWord s = 0x0000000a#32 := by
  simp [statusWord, State.errorFlag, State.busy, hp, hd, he, hk]

/-- Settles O31: the state in which the run ends, its registers, and the blob in OUT. -/
theorem encryptComputesEnc : Obligations.EncryptComputesEnc := by
  intro s p iv hp hi hk hmax hl hload hs ha
  have hlen : p.length = s.inlen.toNat := (loadRange_ok hload).1
  obtain ⟨hm, -, hlt⟩ := (maxPtOk_iff _).mp hmax
  have hfit : ceil16 s.inlen.toNat ≤ s.maxPt := ceil16_le hm hl
  have hout : (s.encrypted p iv).outlen.toNat = 16 + ceil16 p.length := by
    rw [hlen]
    exact outlen_encrypted p iv (by omega)
  have hblob : (s.encrypted p iv).loadRange .outBuf 0 (16 + ceil16 p.length) = .ok (encBlob s.nk s.rk p iv) := by
    rw [State.loadRange, State.region, outBuf_encrypted, ← encBlob_length s.nk s.rk p iv]
    exact readRange_writeRange _ _ _ _
  obtain ⟨hkeyed, herr, hkept⟩ := encrypted_keeps s p iv
  refine ⟨s.encrypted p iv, ?_, statusWord_of_done rfl rfl herr (hkeyed.trans hk), (errWord_eq_zero_iff _).mpr herr,
    hout, encBlob_length _ _ _ _, hblob, hkept⟩
  rw [show 1 + (ceil16 p.length / 16 + 4) = ceil16 p.length / 16 + 1 + 4 by omega]
  exact run_encrypt hp hi hk hl hload hs ha

/-! ## The errors -/

/-- STATUS after an error in a keyed engine. -/
theorem statusWord_raise_of_keyed {s : State} (k : ErrorKind) (hk : s.keyed = true) :
    statusWord (raise k s) = 0x0000000e#32 := by
  simp [statusWord, State.errorFlag, State.busy, hk]

theorem run_encrypt_of_unkeyed {s : State} (hp : s.phase = .idle) (hi : s.inputs = [.host (.wr 0 0x00000002#32)])
    (hk : s.keyed = false) :
    Host.Core.run Sys2Proof.core 2 s = .next (raise .notKeyed (s.issued .encrypt).lengthLatched) := by
  rw [run_encrypt_init 0 hp hi, encryptInit_of_unkeyed (s := s.issued .encrypt) hk]
  rfl

theorem run_encrypt_of_tooLong {s : State} (hp : s.phase = .idle) (hi : s.inputs = [.host (.wr 0 0x00000002#32)])
    (hk : s.keyed = true) (hl : s.maxPt < s.inlen.toNat) :
    Host.Core.run Sys2Proof.core 2 s = .next (raise .inputTooLong (s.issued .encrypt).lengthLatched) := by
  rw [run_encrypt_init 0 hp hi, encryptInit_of_tooLong (s := s.issued .encrypt) hk hl]
  rfl

theorem run_encrypt_of_fail {s : State} {p : List Byte} (hp : s.phase = .idle)
    (hi : s.inputs = [.host (.wr 0 0x00000002#32)]) (hk : s.keyed = true) (hl : s.inlen.toNat ≤ s.maxPt)
    (hload : s.loadRange .inBuf 0 s.inlen.toNat = .ok p) (hs : s.rngSilent = false)
    (ha : s.answerTo s.rngReqs = .fail) :
    Host.Core.run Sys2Proof.core 4 s =
      .next (raise .randomness { s.encryptAccepted.operandPadded p with rngPending := false }) := by
  have hanswer : (s.encryptAccepted.operandPadded p).answer = some .fail :=
    (answer_operandPadded (s := s.encryptAccepted) p hs).trans (congrArg some ha)
  rw [run_encrypt_genIv 0 hp hi hk hl hload, encryptGenIv_of_fail hanswer]
  rfl

/-- The cipher state once the request is sent. -/
theorem operandPadded_keeps_cipher (s : State) (p : List Byte) :
    (s.encryptAccepted.operandPadded p).keyed = s.keyed ∧ (s.encryptAccepted.operandPadded p).nk = s.nk ∧
    (s.encryptAccepted.operandPadded p).rk = s.rk := by
  simp [State.operandPadded, State.encryptAccepted, State.lengthLatched, State.issued]

/-- Settles O32: the state in which each of the three runs ends, and what its registers show. -/
theorem encryptErrorsWholeCommand : Obligations.EncryptErrorsWholeCommand := by
  intro s hp hi
  refine ⟨fun hk => ?_, fun hk hl => ?_, fun hk hl hw hs ha => ?_⟩
  · exact ⟨_, run_encrypt_of_unkeyed hp hi hk, statusWord_raise_of_unkeyed _ hk,
      (errWord_raise _ _).trans (by decide), rfl, rfl⟩
  · exact ⟨_, run_encrypt_of_tooLong hp hi hk hl, statusWord_raise_of_keyed _ hk,
      (errWord_raise _ _).trans (by decide), rfl, rfl, rfl, rfl⟩
  · obtain ⟨p, hload⟩ := loadRange_of_written (s := s) (r := .inBuf) (a := 0) (n := s.inlen.toNat)
      (by simpa using hw)
    obtain ⟨hkeyed, hnk, hrk⟩ := operandPadded_keeps_cipher s p
    exact ⟨_, run_encrypt_of_fail hp hi hk hl hload hs ha, statusWord_raise_of_keyed _ (hkeyed.trans hk),
      (errWord_raise _ _).trans (by decide), rfl, rfl, hnk, hrk⟩

/-! ## Fresh IVs -/

/-- A blob begins with its IV (R146). -/
theorem blockOfBytes_encBlob (v : KeyVariant) (rk : Vector Block 15) (p : List Byte) (iv : Block) :
    blockOfBytes (encBlob v rk p iv) = iv := blockOfBytes_append iv _

/-- Settles O33: equal blobs begin with the same IV, which a fresh source gives to one request only. -/
theorem freshIvsGiveDistinctBlobs : Obligations.FreshIvsGiveDistinctBlobs := by
  intro s m n iv iv' v v' rk rk' p p' hfresh hmn hm hn heq
  have hiv : iv = iv' := by
    rw [← blockOfBytes_encBlob v rk p iv, heq, blockOfBytes_encBlob]
  subst hiv
  exact hmn (hfresh m n iv hm hn)

end Sys2Proof.Machine
end

section
/-! DECRYPT step by step (spec/44 R160 to R165): the state that each phase leaves, and what no step writes. -/

namespace Sys2Proof.Machine

/-! ## Stripping -/

/-- The bytes before the first zero byte, by its offset (R165). -/
theorem strip_eq_take_findIdx (bs : List Byte) : strip bs = bs.take (bs.findIdx (· == 0#8)) := by
  induction bs with
  | nil => rfl
  | cons b bs ih =>
    by_cases hb : b = 0#8
    · simp [strip, List.findIdx_cons, hb]
    · simp [strip, List.findIdx_cons, hb, beq_false_of_ne hb, ih]

theorem strip_length (bs : List Byte) : (strip bs).length = bs.findIdx (· == 0#8) := by
  rw [strip_eq_take_findIdx, List.length_take_of_le List.findIdx_le_length]

theorem strip_getElem? {bs : List Byte} {j : Nat} (hj : j < (strip bs).length) : (strip bs)[j]? = bs[j]? := by
  rw [strip_length] at hj
  rw [strip_eq_take_findIdx, List.getElem?_take_of_lt hj]

/-- No byte before the end of the stripped bytes is zero. -/
theorem getElem?_ne_zero_of_lt_strip {bs : List Byte} {j : Nat} (hj : j < (strip bs).length) :
    bs[j]? ≠ some 0#8 := by
  rw [strip_length] at hj
  have hne := List.not_of_lt_findIdx hj
  rw [List.getElem?_eq_getElem (Nat.lt_of_lt_of_le hj List.findIdx_le_length)]
  simpa using hne

/-- When bytes are stripped off, the first of them is zero. -/
theorem getElem?_strip_length {bs : List Byte} (h : (strip bs).length < bs.length) :
    bs[(strip bs).length]? = some 0#8 := by
  simp only [strip_length] at h ⊢
  have hz := List.findIdx_getElem (w := h)
  rw [List.getElem?_eq_getElem h]
  simpa using hz

/-! ## The states that the phases leave -/

/-- The state after `D_SPLITIV` has read the IV (R162). -/
def State.ivSplit (iv : Block) (s : State) : State := { s with ivreg := iv, chain := iv, phase := .dValidate }

/-- The state after `D_VALIDATE` has accepted the length (R163). -/
def State.lengthAligned (s : State) : State :=
  { s with wlen := s.len - 16, nblk := (s.len - 16) / 16, idx := 1, phase := .dChain }

/-- The state after `D_CHAIN` has decrypted the block `c` of IN (R164). -/
def State.blockUnchained (c : Block) (s : State) : State :=
  { s with
    work := Memory.writeBlock (unlisted .work) s.work (16 * (s.idx - 1)) ((decryptBlock s.nk s.rk c).xor s.chain)
    chain := c
    idx := s.idx + 1 }

/-- The state after `D_STRIP` on the decrypted buffer `bs` (R165). -/
def State.resultStripped (bs : List Byte) (s : State) : State :=
  finish { s with
    outBuf := Memory.writeRange (unlisted .outBuf) s.outBuf 0 (strip bs)
    outlen := BitVec.ofNat 32 (strip bs).length }

theorem region_blockUnchained (c : Block) (s : State) : (s.blockUnchained c).region .work =
    (s.region .work).writeBlock (unlisted .work) (16 * (s.idx - 1)) ((decryptBlock s.nk s.rk c).xor s.chain) := by
  simp only [State.region, State.blockUnchained]

/-! ## Each phase -/

theorem exec_decrypt_dInit {s : State} (hp : s.phase = .dInit) : exec .decrypt s = .next (decryptInit s) := by
  simp only [exec, execDecrypt, hp]

theorem exec_decrypt_dSplitIv {s : State} (hp : s.phase = .dSplitIv) : exec .decrypt s = decryptSplitIv s := by
  simp only [exec, execDecrypt, hp]

theorem exec_decrypt_dValidate {s : State} (hp : s.phase = .dValidate) :
    exec .decrypt s = .next (decryptValidate s) := by
  simp only [exec, execDecrypt, hp]

theorem exec_decrypt_dChain {s : State} (hp : s.phase = .dChain) : exec .decrypt s = decryptChain s := by
  simp only [exec, execDecrypt, hp]

theorem exec_decrypt_dStrip {s : State} (hp : s.phase = .dStrip) : exec .decrypt s = decryptStrip s := by
  simp only [exec, execDecrypt, hp]

theorem decryptInit_of_unkeyed {s : State} (hk : s.keyed = false) :
    decryptInit s = raise .notKeyed s.lengthLatched := if_pos hk

theorem decryptInit_of_tooLong {s : State} (hk : s.keyed = true) (hl : s.maxPt + 16 < s.inlen.toNat) :
    decryptInit s = raise .inputTooLong s.lengthLatched :=
  (if_neg (by simp [hk])).trans (if_pos hl)

theorem decryptInit_of_tooShort {s : State} (hk : s.keyed = true) (hl : s.inlen.toNat < 16) :
    decryptInit s = raise .ciphertextTooShort s.lengthLatched :=
  have hcap : ¬ s.maxPt + 16 < s.inlen.toNat := by omega
  (if_neg (by simp [hk])).trans ((if_neg hcap).trans (if_pos hl))

theorem decryptInit_of_fits {s : State} (hk : s.keyed = true) (hl : s.inlen.toNat ≤ s.maxPt + 16)
    (hge : 16 ≤ s.inlen.toNat) : decryptInit s = { s.lengthLatched with phase := .dSplitIv } :=
  (if_neg (by simp [hk])).trans ((if_neg (Nat.not_lt_of_le hl)).trans (if_neg (Nat.not_lt_of_le hge)))

theorem decryptSplitIv_of_load {s : State} {iv : Block} (h : s.loadBlock .inBuf 0 = .ok iv) :
    decryptSplitIv s = .next (s.ivSplit iv) := by
  rw [decryptSplitIv, h]
  rfl

theorem decryptValidate_of_misaligned {s : State} (h : (s.len - 16) % 16 ≠ 0) :
    decryptValidate s = raise .misalignedCiphertext s := if_pos h

theorem decryptValidate_of_aligned {s : State} (h : (s.len - 16) % 16 = 0) :
    decryptValidate s = s.lengthAligned := if_neg (not_not_intro h)

theorem decryptChain_of_block {s : State} {c : Block} (h1 : 1 ≤ s.idx) (hn : s.idx ≤ s.nblk)
    (hc : s.loadBlock .inBuf (16 * s.idx) = .ok c) : decryptChain s = .next (s.blockUnchained c) := by
  rw [decryptChain, if_neg (Nat.ne_of_gt h1), if_pos hn, decryptBlockStep, hc]
  rfl

theorem decryptChain_of_exit {s : State} (hn : s.nblk < s.idx) :
    decryptChain s = .next { s with phase := .dStrip } := by
  rw [decryptChain, if_neg (Nat.ne_zero_of_lt hn), if_neg (Nat.not_le_of_lt hn)]

theorem decryptStrip_of_load {s : State} {bs : List Byte} (h : s.loadRange .work 0 s.wlen = .ok bs) :
    decryptStrip s = .next (s.resultStripped bs) := by
  rw [decryptStrip, h]
  rfl

/-- OUTLEN after `D_STRIP`, when the buffer's length fits the register (R165, R151). -/
theorem outlen_resultStripped {s : State} {bs : List Byte} (h : bs.length < 2 ^ 32) :
    (s.resultStripped bs).outlen.toNat = (strip bs).length :=
  Nat.mod_eq_of_lt (Nat.lt_of_le_of_lt (strip_length_le bs) h)

/-- The bytes of OUT after `D_STRIP`: the stripped buffer, then what OUT held. -/
theorem load_outBuf_resultStripped {s : State} {bs : List Byte} {j : Nat} (hj : j < (strip bs).length) :
    (s.resultStripped bs).load .outBuf j = bs[j]? := by
  have h := Memory.read_writeRange_same none s.outBuf (a := 0) (strip bs) hj
  rw [Nat.zero_add, strip_getElem? hj] at h
  exact h

theorem load_outBuf_resultStripped_of_ge {s : State} {bs : List Byte} {j : Nat} (hj : (strip bs).length ≤ j) :
    (s.resultStripped bs).load .outBuf j = s.load .outBuf j :=
  Memory.read_writeRange_other none s.outBuf (strip bs) (.inr (by rwa [Nat.zero_add]))

/-! ## The obligations -/

/-- Settles O34: the three errors and the accepted operand, each in its own case of the checks. -/
theorem decryptChecksOperands : Obligations.DecryptChecksOperands := by
  intro s hp
  rw [exec_decrypt_dInit hp]
  exact ⟨fun hk => ⟨[], congrArg Host.Outcome.next (decryptInit_of_unkeyed hk)⟩,
    fun hk hl => ⟨[], congrArg Host.Outcome.next (decryptInit_of_tooLong hk hl)⟩,
    fun hk _ hlt => ⟨[], congrArg Host.Outcome.next (decryptInit_of_tooShort hk hlt)⟩,
    fun hk hl hge => congrArg Host.Outcome.next (decryptInit_of_fits hk hl hge)⟩

/-- Settles O35: the block that IN holds at offset 0. -/
theorem decryptSplitsIv : Obligations.DecryptSplitsIv := fun _ _ hp hiv =>
  (exec_decrypt_dSplitIv hp).trans (decryptSplitIv_of_load hiv)

/-- Settles O36: the two cases of the alignment check. -/
theorem decryptValidatesAlignment : Obligations.DecryptValidatesAlignment := by
  intro s hp _
  rw [exec_decrypt_dValidate hp]
  exact ⟨fun hm => ⟨[], congrArg Host.Outcome.next (decryptValidate_of_misaligned hm)⟩,
    fun hm => congrArg Host.Outcome.next (decryptValidate_of_aligned hm)⟩

/-- Settles O37: the block written and the bytes of WORK around it, and the exit. -/
theorem decryptUnchainsOneBlock : Obligations.DecryptUnchainsOneBlock := by
  intro s hp h1
  rw [exec_decrypt_dChain hp]
  refine ⟨fun c hn hc => ⟨s.blockUnchained c, decryptChain_of_block h1 hn hc,
    loadBlock_of_writeBlock (region_blockUnchained c s),
    fun x hx => load_of_writeBlock (region_blockUnchained c s) (by omega), ?_⟩, decryptChain_of_exit⟩
  simp only [State.blockUnchained]

/-- Settles O38: the result ends at the length of the stripped buffer. -/
theorem decryptStripsAtFirstZero : Obligations.DecryptStripsAtFirstZero := by
  intro s hp hlt hw
  obtain ⟨bs, hbs⟩ := loadRange_of_written (s := s) (r := .work) (a := 0) (n := s.wlen) (by simpa using hw)
  obtain ⟨hlen, hbyte⟩ := loadRange_ok hbs
  have hle : (strip bs).length ≤ s.wlen := hlen ▸ strip_length_le bs
  have hwork (j : Nat) (hj : j < s.wlen) : s.load .work j = bs[j]? := by rw [← hbyte j hj, Nat.zero_add]
  refine ⟨s.resultStripped bs, (strip bs).length, (exec_decrypt_dStrip hp).trans (decryptStrip_of_load hbs), hle,
    fun j hj => ?_, fun hr => ?_, outlen_resultStripped (hlen ▸ hlt), fun j hj => ?_,
    fun j => load_outBuf_resultStripped_of_ge, ?_⟩
  · rw [hwork j (by omega)]
    exact getElem?_ne_zero_of_lt_strip hj
  · rw [hwork _ hr]
    exact getElem?_strip_length (hlen ▸ hr)
  · rw [hwork j (by omega)]
    exact load_outBuf_resultStripped hj
  · simp only [State.resultStripped, finish]

/-! ## The frame -/

/-- The operand spaces hold the same bytes when their cells are kept. -/
theorem load_operand_congr {s t : State} (hk : t.key = s.key) (hi : t.inBuf = s.inBuf) (r : Region) (off : Nat)
    (hr : r = .key ∨ r = .inBuf) : t.load r off = s.load r off := by
  obtain rfl | rfl := hr
  · exact load_congr (r := .key) hk off
  · exact load_congr (r := .inBuf) hi off

/-- The engine makes a request to the random source at `E_PAD` only (R196). -/
theorem EngineMove.keeps_requests {s t : State} (h : EngineMove s t) (hp : s.phase ≠ .ePad) :
    t.rngReqs = s.rngReqs ∧ (t.rngPending = s.rngPending ∨ t.rngPending = false) := by
  cases h
  case pad hpad _ => exact absurd hpad hp
  case keyRefused | encRefused | ivRefused | ivTaken | decRefused | misaligned => exact ⟨rfl, .inr rfl⟩
  all_goals exact ⟨rfl, .inl rfl⟩

/-- Settles O40: the issue and every move of DECRYPT keep the operands, the count of requests and what the frame leaves
out. -/
theorem decryptFrame : Obligations.DecryptFrame := by
  intro s t h
  obtain rfl | ⟨hc, hm⟩ | rfl := exec_next h
  · exact ⟨rfl, .inl rfl, load_operand_congr rfl rfl⟩
  · have hpad : s.phase ≠ .ePad := fun hp => by simp [hp, Phase.command] at hc
    obtain ⟨hreqs, hpending⟩ := hm.keeps_requests hpad
    obtain ⟨hk, hi, -, -⟩ := hm.keeps_operands
    have hframe := hm.frame (by simp [hc])
    rw [hreqs] at hframe
    exact ⟨hframe, hpending, load_operand_congr hk hi⟩
  · exact ⟨rfl, .inl rfl, fun _ _ _ => rfl⟩

end Sys2Proof.Machine
end

section
/-! DECRYPT as a function (spec/44 R167, R168, R170): it undoes ENCRYPT up to the first zero byte, and a block of its
result depends on two blocks of the ciphertext. -/

namespace Sys2Proof.Machine

/-! ## The round trip -/

@[simp] theorem chainDecrypt_chainEncrypt (v : KeyVariant) (rk : Vector Block 15) (iv : Block) (ps : List Block) :
    chainDecrypt v rk iv (chainEncrypt v rk iv ps) = ps := by
  induction ps generalizing iv with
  | nil => rfl
  | cons p ps ih => rw [chainEncrypt, chainDecrypt, ih, decryptBlock_encryptBlock, Block.xor_xor_cancel]

theorem blocksOf_bytesOf (cs : List Block) : blocksOf cs.length (bytesOf cs) = cs := by
  induction cs with
  | nil => rfl
  | cons c cs ih =>
    have hdrop : (bytesOf (c :: cs)).drop 16 = bytesOf cs := List.drop_left' (blockBytes_length c)
    rw [List.length_cons, blocksOf, hdrop, ih]
    exact congrArg (· :: cs) (blockOfBytes_append c _)

theorem bytesOf_blocksOf {n : Nat} {bs : List Byte} (h : bs.length = 16 * n) : bytesOf (blocksOf n bs) = bs := by
  induction n generalizing bs with
  | zero => exact (List.eq_nil_of_length_eq_zero h).symm
  | succ n ih =>
    have hrest : bytesOf (blocksOf n (bs.drop 16)) = bs.drop 16 := ih (by rw [List.length_drop]; omega)
    have hfirst : blockBytes (blockOfBytes bs) = bs.take 16 := by
      rw [← blockOfBytes_take, blockBytes_blockOfBytes (List.length_take_of_le (by omega))]
    rw [blocksOf, bytesOf, List.flatMap_cons, hfirst, ← bytesOf, hrest, List.take_append_drop]

/-- The decrypted buffer of a blob is the padded plaintext (R168). -/
theorem decBuffer_encBlob (v : KeyVariant) (rk : Vector Block 15) (p : List Byte) (iv : Block) :
    decBuffer v rk (encBlob v rk p iv) = padded p := by
  have hmod := ceil16_mod p.length
  have hdrop : (encBlob v rk p iv).drop 16 =
      bytesOf (chainEncrypt v rk iv (blocksOf (ceil16 p.length / 16) (padded p))) :=
    List.drop_left' (blockBytes_length iv)
  have hblocks := blocksOf_bytesOf (chainEncrypt v rk iv (blocksOf (ceil16 p.length / 16) (padded p)))
  rw [chainEncrypt_length, blocksOf_length] at hblocks
  rw [decBuffer, encBlob_length, Nat.add_sub_cancel_left, blockOfBytes_encBlob, hdrop, hblocks,
    chainDecrypt_chainEncrypt, bytesOf_blocksOf (by rw [padded_length]; omega)]

/-- What it takes for `Dec` to answer (R163, R167). -/
theorem decBlob_ok_iff {v : KeyVariant} {rk : Vector Block 15} {b r : List Byte} :
    decBlob v rk b = .ok r ↔ 16 ≤ b.length ∧ (b.length - 16) % 16 = 0 ∧ strip (decBuffer v rk b) = r := by
  unfold decBlob
  split
  · next hlt => simp [Nat.not_le_of_lt hlt]
  · next hge =>
    split
    · next hm => simp [hm]
    · next hm => simp [Nat.le_of_not_lt hge, Decidable.not_not.mp hm]

theorem decBlob_encBlob (v : KeyVariant) (rk : Vector Block 15) (p : List Byte) (iv : Block) :
    decBlob v rk (encBlob v rk p iv) = .ok (strip (padded p)) := by
  rw [decBlob_ok_iff, encBlob_length, decBuffer_encBlob, Nat.add_sub_cancel_left]
  exact ⟨Nat.le_add_right 16 _, ceil16_mod _, rfl⟩

@[simp] theorem strip_append_zeros (bs : List Byte) (n : Nat) : strip (bs ++ List.replicate n 0#8) = strip bs := by
  induction bs with
  | nil => cases n <;> rfl
  | cons b bs ih => rw [List.cons_append, strip, strip, ih]

theorem strip_padded (p : List Byte) : strip (padded p) = strip p := strip_append_zeros p _

/-- Stripping keeps a sequence exactly when it has no zero byte. -/
theorem strip_eq_self_iff (p : List Byte) : strip p = p ↔ 0#8 ∉ p := by
  calc strip p = p ↔ p.length ≤ p.findIdx (· == 0#8) := by rw [strip_eq_take_findIdx, List.take_eq_self_iff]
    _ ↔ p.findIdx (· == 0#8) = p.length := ⟨List.findIdx_le_length.antisymm, Eq.ge⟩
    _ ↔ 0#8 ∉ p := by
      rw [List.findIdx_eq_length]
      exact ⟨fun h hz => by simpa using h _ hz, fun h x hx => by simpa using ne_of_mem_of_not_mem hx h⟩

/-- Settles O43: the blob decrypts to the stripped padding, which is the stripped plaintext. -/
theorem roundTripIffNoZeroByte : Obligations.RoundTripIffNoZeroByte := by
  intro v rk p iv
  refine ⟨decBlob_encBlob v rk p iv, strip_padded p, ?_⟩
  rw [decBlob_encBlob, strip_padded, Except.ok.injEq, strip_eq_self_iff]

/-! ## Altered ciphertext -/

/-- The chain block by block: each block of the result comes from a ciphertext block and the one before it (R164). -/
theorem chainDecrypt_eq_zipWith (v : KeyVariant) (rk : Vector Block 15) (iv : Block) (cs : List Block) :
    chainDecrypt v rk iv cs = List.zipWith (fun c prev => (decryptBlock v rk c).xor prev) cs (iv :: cs) := by
  induction cs generalizing iv with
  | nil => rfl
  | cons c cs ih => rw [chainDecrypt, ih, List.zipWith_cons_cons]

theorem Block.xor_assoc (x y z : Block) : (x.xor y).xor z = x.xor (y.xor z) := by
  simp [Block.xor, Word.xor, BitVec.xor_assoc]

section
variable {v : KeyVariant} {rk : Vector Block 15} {iv iv' : Block} {cs cs' : List Block} {j : Nat}

theorem chainDecrypt_getElem?_eq_some {q : Block} : (chainDecrypt v rk iv cs)[j]? = some q ↔
    ∃ c prev, cs[j]? = some c ∧ (iv :: cs)[j]? = some prev ∧ (decryptBlock v rk c).xor prev = q := by
  rw [chainDecrypt_eq_zipWith, List.getElem?_zipWith_eq_some]

/-- A block of the result depends on its ciphertext block and the one before it only. -/
theorem chainDecrypt_getElem?_congr (hc : cs'[j]? = cs[j]?) (hp : (iv' :: cs')[j]? = (iv :: cs)[j]?) :
    (chainDecrypt v rk iv' cs')[j]? = (chainDecrypt v rk iv cs)[j]? := by
  rw [chainDecrypt_eq_zipWith, chainDecrypt_eq_zipWith, List.getElem?_zipWith', List.getElem?_zipWith', hc, hp]

/-- Changing the block before a ciphertext block changes the result by the XOR difference. -/
theorem chainDecrypt_getElem?_of_previous {q prev prev' : Block} (hc : cs'[j]? = cs[j]?)
    (hp : (iv :: cs)[j]? = some prev) (hp' : (iv' :: cs')[j]? = some prev')
    (hq : (chainDecrypt v rk iv cs)[j]? = some q) :
    (chainDecrypt v rk iv' cs')[j]? = some (q.xor (prev.xor prev')) := by
  obtain ⟨c, x, hcj, hx, rfl⟩ := chainDecrypt_getElem?_eq_some.mp hq
  obtain rfl : prev = x := Option.some_inj.mp (hp.symm.trans hx)
  refine chainDecrypt_getElem?_eq_some.mpr ⟨c, prev', hc.trans hcj, hp', ?_⟩
  rw [← Block.xor_assoc, Block.xor_xor_cancel]

/-- Replacing block `i` changes the previous block of none but block `i + 1`. -/
theorem cons_set_getElem?_of_ne {i : Nat} (c' : Block) (h : j ≠ i + 1) :
    (iv :: cs.set i c')[j]? = (iv :: cs)[j]? := by
  rw [← List.set_cons_succ, List.getElem?_set_ne h.symm]

end

/-- Settles O44: block `i` is the current block of place `i` and the previous one of place `i + 1`; the IV is the
previous block of the first place. -/
theorem alteredBlockChangesTwoBlocks : Obligations.AlteredBlockChangesTwoBlocks := by
  intro v rk iv iv' c' cs i hi
  have hset : (cs.set i c')[i]? = some c' := List.getElem?_set_self hi
  refine ⟨fun j hj hj1 => ?_, fun prev hprev => ?_, fun c q hc hq => ?_, fun q hq => ?_, fun j hj => ?_⟩
  · exact chainDecrypt_getElem?_congr (List.getElem?_set_ne hj.symm) (cons_set_getElem?_of_ne c' hj1)
  · have hp : (iv :: cs.set i c')[i]? = some prev := (cons_set_getElem?_of_ne c' i.lt_succ_self.ne).trans hprev
    exact chainDecrypt_getElem?_eq_some.mpr ⟨c', prev, hset, hp, rfl⟩
  · exact chainDecrypt_getElem?_of_previous (List.getElem?_set_ne i.lt_succ_self.ne) hc hset hq
  · exact chainDecrypt_getElem?_of_previous rfl rfl rfl hq
  · obtain ⟨k, rfl⟩ := Nat.exists_eq_add_of_le' hj
    exact chainDecrypt_getElem?_congr rfl rfl

end Sys2Proof.Machine
end

section
/-! DECRYPT as a whole command (spec/44 R167, R169): the run from the host's write of its word, block by block to the
stripped result, or to one of the four errors. -/

namespace Sys2Proof.Machine

/-! ## The chain as one run -/

@[simp] theorem chainDecrypt_length (v : KeyVariant) (rk : Vector Block 15) (c : Block) (cs : List Block) :
    (chainDecrypt v rk c cs).length = cs.length := by
  simp [chainDecrypt_eq_zipWith]

/-- The state after `D_CHAIN` has decrypted the blocks `cs` one after the other. -/
def State.blocksUnchained (cs : List Block) (s : State) : State :=
  { s with
    work :=
      Memory.writeRange (unlisted .work) s.work (16 * (s.idx - 1)) (bytesOf (chainDecrypt s.nk s.rk s.chain cs))
    chain := cs.getLastD s.chain
    idx := s.idx + cs.length }

theorem blocksUnchained_cons (c : Block) (cs : List Block) {s : State} (h1 : 1 ≤ s.idx) :
    s.blocksUnchained (c :: cs) = (s.blockUnchained c).blocksUnchained cs := by
  have hnext : 16 * (s.idx - 1) + 16 = 16 * (s.idx + 1 - 1) := by omega
  simp only [State.blocksUnchained, State.blockUnchained, chainDecrypt, bytesOf, List.flatMap_cons,
    Memory.writeRange_append, blockBytes_length, hnext, Memory.writeBlock, List.getLastD_cons, List.length_cons,
    Nat.add_assoc, Nat.add_comm 1]

/-- The steps at `D_CHAIN` for the blocks that IN holds, a step a block (R164). -/
theorem run_decrypt_blocks {s : State} {cs : List Block} (k : Nat) (hp : s.phase = .dChain) (hi : s.inputs = [])
    (h1 : 1 ≤ s.idx) (hn : s.idx + cs.length = s.nblk + 1)
    (hb : ∀ j c, cs[j]? = some c → s.loadBlock .inBuf (16 * (s.idx + j)) = .ok c) :
    Host.Core.run Sys2Proof.core (cs.length + k) s = Host.Core.run Sys2Proof.core k (s.blocksUnchained cs) := by
  induction cs generalizing s with
  | nil => rw [List.length_nil, Nat.zero_add]; rfl
  | cons c cs ih =>
    rw [List.length_cons] at hn ⊢
    have hstep : step s = .next (s.blockUnchained c) := by
      rw [step_of_command hi (i := .decrypt) (by rw [hp]; rfl), exec_decrypt_dChain hp]
      exact decryptChain_of_block h1 (by omega) (hb 0 c rfl)
    have hrest : ∀ j q, cs[j]? = some q →
        (s.blockUnchained c).loadBlock .inBuf (16 * ((s.blockUnchained c).idx + j)) = .ok q := by
      intro j q hq
      have hbj := hb (j + 1) q hq
      rwa [Nat.add_comm j, ← Nat.add_assoc] at hbj
    rw [Nat.add_right_comm, run_core_of_step _ hstep, blocksUnchained_cons c cs h1]
    exact ih (s := s.blockUnchained c) hp hi (Nat.le_add_left 1 _) (by simp only [State.blockUnchained]; omega) hrest

/-! ## The run of the command -/

/-- The state in which DECRYPT, with nothing else to come, has passed its first checks (R161). -/
def State.decryptAccepted (s : State) : State := { (s.issued .decrypt).lengthLatched with phase := .dSplitIv }

/-- The host's write of DECRYPT's word, then the engine step at `D_INIT`. -/
theorem run_decrypt_init {s : State} (k : Nat) (hp : s.phase = .idle)
    (hi : s.inputs = [.host (.wr 0 0x00000003#32)]) :
    Host.Core.run Sys2Proof.core (k + 2) s = Host.Core.run Sys2Proof.core k (decryptInit (s.issued .decrypt)) := by
  rw [run_cmdWrite (k + 1) hp hi decode_decrypt_word]
  exact run_core_of_step k ((step_of_command rfl rfl).trans (exec_decrypt_dInit rfl))

/-- With an operand whose length passes the first checks, three steps lead to `D_VALIDATE` and a fourth checks the
alignment. -/
theorem run_decrypt_validate {s : State} {iv : Block} (k : Nat) (hp : s.phase = .idle)
    (hi : s.inputs = [.host (.wr 0 0x00000003#32)]) (hk : s.keyed = true) (hl : s.inlen.toNat ≤ s.maxPt + 16)
    (hge : 16 ≤ s.inlen.toNat) (hiv : s.loadBlock .inBuf 0 = .ok iv) :
    Host.Core.run Sys2Proof.core (k + 4) s =
      Host.Core.run Sys2Proof.core k (decryptValidate (s.decryptAccepted.ivSplit iv)) := by
  have hinit : decryptInit (s.issued .decrypt) = s.decryptAccepted := decryptInit_of_fits hk hl hge
  have hsplit : step s.decryptAccepted = .next (s.decryptAccepted.ivSplit iv) :=
    (step_of_command rfl rfl).trans ((exec_decrypt_dSplitIv rfl).trans (decryptSplitIv_of_load hiv))
  have hvalidate : step (s.decryptAccepted.ivSplit iv) = .next (decryptValidate (s.decryptAccepted.ivSplit iv)) :=
    (step_of_command rfl rfl).trans (exec_decrypt_dValidate rfl)
  rw [run_decrypt_init (k + 2) hp hi, hinit, run_core_of_step _ hsplit, run_core_of_step _ hvalidate]

/-- The state in which DECRYPT of the blob `b` begins to chain. -/
def State.unchainStart (b : List Byte) (s : State) : State :=
  (s.decryptAccepted.ivSplit (blockOfBytes b)).lengthAligned

theorem inBuf_unchainStart (s : State) (b : List Byte) : (s.unchainStart b).inBuf = s.inBuf := by
  simp only [State.unchainStart, State.lengthAligned, State.ivSplit, State.decryptAccepted, State.lengthLatched,
    State.issued, issue_inBuf]

/-- The ciphertext blocks of the blob `b`. -/
def blobBlocks (b : List Byte) : List Block := blocksOf ((b.length - 16) / 16) (b.drop 16)

theorem decBuffer_eq (v : KeyVariant) (rk : Vector Block 15) (b : List Byte) :
    decBuffer v rk b = bytesOf (chainDecrypt v rk (blockOfBytes b) (blobBlocks b)) := rfl

@[simp] theorem blobBlocks_length (b : List Byte) : (blobBlocks b).length = (b.length - 16) / 16 := blocksOf_length _ _

theorem decBuffer_length (v : KeyVariant) (rk : Vector Block 15) {b : List Byte} (h : (b.length - 16) % 16 = 0) :
    (decBuffer v rk b).length = b.length - 16 := by
  rw [decBuffer_eq, bytesOf_length, chainDecrypt_length, blobBlocks_length]
  omega

/-- The ciphertext blocks of a blob in IN stand after its IV. -/
theorem loadBlock_of_blobBlocks {s : State} {b : List Byte} {n j : Nat} {c : Block}
    (h : s.loadRange .inBuf 0 n = .ok b) (hc : (blobBlocks b)[j]? = some c) :
    s.loadBlock .inBuf (16 * (1 + j)) = .ok c := by
  have hlen : b.length = n := (loadRange_ok h).1
  have hj : j < (b.length - 16) / 16 := by simpa using (List.getElem?_eq_some_iff.mp hc).1
  rw [blobBlocks, blocksOf_getElem? _ hj, Option.some_inj, List.drop_drop] at hc
  have hb := loadBlock_part (i := 16 + 16 * j) h (by omega)
  rw [Nat.zero_add, hc] at hb
  rwa [Nat.mul_add]

/-- The state in which DECRYPT of the blob `b` has its whole buffer in WORK. -/
def State.bufferDecrypted (b : List Byte) (s : State) : State :=
  { (s.unchainStart b).blocksUnchained (blobBlocks b) with phase := .dStrip }

theorem work_bufferDecrypted (s : State) (b : List Byte) :
    (s.bufferDecrypted b).work = Memory.writeRange (unlisted .work) s.work 0 (decBuffer s.nk s.rk b) := by
  simp only [decBuffer_eq, State.bufferDecrypted, State.blocksUnchained, State.unchainStart, State.lengthAligned,
    State.ivSplit, State.decryptAccepted, State.lengthLatched, State.issued, issue_nk, issue_rk, issue_work,
    Nat.sub_self, Nat.mul_zero]

theorem loadRange_work_bufferDecrypted {s : State} {b : List Byte} (hlen : b.length = s.inlen.toNat)
    (hm : (b.length - 16) % 16 = 0) :
    (s.bufferDecrypted b).loadRange .work 0 (s.bufferDecrypted b).wlen = .ok (decBuffer s.nk s.rk b) := by
  have hwlen : (s.bufferDecrypted b).wlen = (decBuffer s.nk s.rk b).length := by
    rw [decBuffer_length _ _ hm, hlen]
    rfl
  rw [hwlen, State.loadRange, State.region, work_bufferDecrypted]
  exact readRange_writeRange _ _ _ _

/-- The state in which DECRYPT of the blob `b` ends. -/
def State.decrypted (b : List Byte) (s : State) : State :=
  (s.bufferDecrypted b).resultStripped (decBuffer s.nk s.rk b)

/-- The steps from `D_CHAIN` on: a step a block, the exit, and the stripping (R164, R165). -/
theorem run_unchainStart {s : State} {b : List Byte} (hload : s.loadRange .inBuf 0 s.inlen.toNat = .ok b)
    (hm : (b.length - 16) % 16 = 0) :
    Host.Core.run Sys2Proof.core ((b.length - 16) / 16 + 2) (s.unchainStart b) = .next (s.decrypted b) := by
  have hlen : b.length = s.inlen.toNat := (loadRange_ok hload).1
  have hnblk : (s.unchainStart b).nblk = (b.length - 16) / 16 := by rw [hlen]; rfl
  have hin : (s.unchainStart b).loadRange .inBuf 0 s.inlen.toNat = .ok b := by
    rwa [State.loadRange, State.region, inBuf_unchainStart]
  have hblocks := run_decrypt_blocks (s := s.unchainStart b) (cs := blobBlocks b) 2 rfl rfl (Nat.le_refl 1)
    (by rw [hnblk, blobBlocks_length]; exact Nat.add_comm _ _) fun _ _ => loadBlock_of_blobBlocks hin
  rw [blobBlocks_length] at hblocks
  have hexit : step ((s.unchainStart b).blocksUnchained (blobBlocks b)) = .next (s.bufferDecrypted b) := by
    have hdone : ((s.unchainStart b).blocksUnchained (blobBlocks b)).nblk <
        ((s.unchainStart b).blocksUnchained (blobBlocks b)).idx := by
      simp only [State.blocksUnchained, blobBlocks_length, hnblk]
      exact Nat.lt_add_of_pos_left Nat.one_pos
    exact (step_of_command rfl rfl).trans ((exec_decrypt_dChain rfl).trans (decryptChain_of_exit hdone))
  have hstrip : step (s.bufferDecrypted b) = .next (s.decrypted b) :=
    (step_of_command rfl rfl).trans ((exec_decrypt_dStrip rfl).trans
      (decryptStrip_of_load (loadRange_work_bufferDecrypted hlen hm)))
  rw [hblocks, run_core_of_step 1 hexit, run_core_of_step 0 hstrip]
  rfl

/-- The IV of a blob in IN is its first block. -/
theorem loadBlock_iv {s : State} {b : List Byte} {n : Nat} (h : s.loadRange .inBuf 0 n = .ok b) (hn : 16 ≤ n) :
    s.loadBlock .inBuf 0 = .ok (blockOfBytes b) := loadBlock_part (i := 0) h (by omega)

/-- The whole command: four steps to the chain, then the chain and the stripping (R167). -/
theorem run_decrypt {s : State} {b : List Byte} (hp : s.phase = .idle)
    (hi : s.inputs = [.host (.wr 0 0x00000003#32)]) (hk : s.keyed = true) (hl : s.inlen.toNat ≤ s.maxPt + 16)
    (hge : 16 ≤ s.inlen.toNat) (hload : s.loadRange .inBuf 0 s.inlen.toNat = .ok b)
    (hm : (b.length - 16) % 16 = 0) :
    Host.Core.run Sys2Proof.core ((b.length - 16) / 16 + 2 + 4) s = .next (s.decrypted b) := by
  have hvalid : decryptValidate (s.decryptAccepted.ivSplit (blockOfBytes b)) = s.unchainStart b :=
    decryptValidate_of_aligned (by rwa [(loadRange_ok hload).1] at hm)
  rw [run_decrypt_validate _ hp hi hk hl hge (loadBlock_iv hload hge), hvalid]
  exact run_unchainStart hload hm

/-- OUT at the end of the command is the stripped buffer (R165, R167). -/
theorem loadRange_outBuf_decrypted (s : State) (b : List Byte) :
    (s.decrypted b).loadRange .outBuf 0 (strip (decBuffer s.nk s.rk b)).length =
      .ok (strip (decBuffer s.nk s.rk b)) :=
  readRange_writeRange none [] 0 _

/-- The registers that DECRYPT keeps, and ERR, at the end of the command (R160, R167). -/
theorem decrypted_keeps (s : State) (b : List Byte) :
    (s.decrypted b).keyed = s.keyed ∧ (s.decrypted b).err = none ∧
    (s.decrypted b).nk = s.nk ∧ (s.decrypted b).rk = s.rk ∧ (s.decrypted b).inBuf = s.inBuf ∧
    (s.decrypted b).key = s.key ∧ (s.decrypted b).keylen = s.keylen ∧ (s.decrypted b).inlen = s.inlen := by
  simp [State.decrypted, State.resultStripped, State.bufferDecrypted, State.blocksUnchained, State.unchainStart,
    State.lengthAligned, State.ivSplit, State.decryptAccepted, State.lengthLatched, State.issued]

/-- Settles O41: the state in which the run ends, its registers, and the stripped buffer in OUT. -/
theorem decryptComputesDec : Obligations.DecryptComputesDec := by
  intro s b r hp hi hk hmax hl hload hdec
  have hlen : b.length = s.inlen.toNat := (loadRange_ok hload).1
  obtain ⟨-, -, hlt⟩ := (maxPtOk_iff _).mp hmax
  obtain ⟨hge, hm, rfl⟩ := decBlob_ok_iff.mp hdec
  have hout : (s.decrypted b).outlen.toNat = (strip (decBuffer s.nk s.rk b)).length :=
    outlen_resultStripped (by rw [decBuffer_length _ _ hm]; omega)
  obtain ⟨hkeyed, herr, hkept⟩ := decrypted_keeps s b
  refine ⟨s.decrypted b, ?_, statusWord_of_done rfl rfl herr (hkeyed.trans hk), (errWord_eq_zero_iff _).mpr herr,
    hout, loadRange_outBuf_decrypted s b, hkept⟩
  rw [show 1 + ((b.length - 16) / 16 + 5) = (b.length - 16) / 16 + 2 + 4 by omega]
  exact run_decrypt hp hi hk hl (hlen ▸ hge) hload hm

/-! ## The errors -/

theorem run_decrypt_of_unkeyed {s : State} (hp : s.phase = .idle) (hi : s.inputs = [.host (.wr 0 0x00000003#32)])
    (hk : s.keyed = false) :
    Host.Core.run Sys2Proof.core 2 s = .next (raise .notKeyed (s.issued .decrypt).lengthLatched) := by
  rw [run_decrypt_init 0 hp hi, decryptInit_of_unkeyed (s := s.issued .decrypt) hk]
  rfl

theorem run_decrypt_of_tooLong {s : State} (hp : s.phase = .idle) (hi : s.inputs = [.host (.wr 0 0x00000003#32)])
    (hk : s.keyed = true) (hl : s.maxPt + 16 < s.inlen.toNat) :
    Host.Core.run Sys2Proof.core 2 s = .next (raise .inputTooLong (s.issued .decrypt).lengthLatched) := by
  rw [run_decrypt_init 0 hp hi, decryptInit_of_tooLong (s := s.issued .decrypt) hk hl]
  rfl

theorem run_decrypt_of_tooShort {s : State} (hp : s.phase = .idle) (hi : s.inputs = [.host (.wr 0 0x00000003#32)])
    (hk : s.keyed = true) (hl : s.inlen.toNat < 16) :
    Host.Core.run Sys2Proof.core 2 s = .next (raise .ciphertextTooShort (s.issued .decrypt).lengthLatched) := by
  rw [run_decrypt_init 0 hp hi, decryptInit_of_tooShort (s := s.issued .decrypt) hk hl]
  rfl

theorem run_decrypt_of_misaligned {s : State} {iv : Block} (hp : s.phase = .idle)
    (hi : s.inputs = [.host (.wr 0 0x00000003#32)]) (hk : s.keyed = true) (hl : s.inlen.toNat ≤ s.maxPt + 16)
    (hge : 16 ≤ s.inlen.toNat) (hiv : s.loadBlock .inBuf 0 = .ok iv) (hm : (s.inlen.toNat - 16) % 16 ≠ 0) :
    Host.Core.run Sys2Proof.core 4 s = .next (raise .misalignedCiphertext (s.decryptAccepted.ivSplit iv)) := by
  rw [run_decrypt_validate 0 hp hi hk hl hge hiv,
    decryptValidate_of_misaligned (s := s.decryptAccepted.ivSplit iv) hm]
  rfl

/-- The cipher state once the IV is read. -/
theorem ivSplit_keeps_cipher (s : State) (iv : Block) :
    (s.decryptAccepted.ivSplit iv).keyed = s.keyed ∧ (s.decryptAccepted.ivSplit iv).nk = s.nk ∧
    (s.decryptAccepted.ivSplit iv).rk = s.rk := by
  simp [State.ivSplit, State.decryptAccepted, State.lengthLatched, State.issued]

/-- Settles O42: the state in which each of the four runs ends, and what its registers show. -/
theorem decryptErrorsWholeCommand : Obligations.DecryptErrorsWholeCommand := by
  intro s hp hi
  refine ⟨fun hk => ?_, fun hk hl => ?_, fun hk hl => ?_, fun hk hge hl hm hw => ?_⟩
  · exact ⟨_, run_decrypt_of_unkeyed hp hi hk, statusWord_raise_of_unkeyed _ hk,
      (errWord_raise _ _).trans (by decide), rfl⟩
  · exact ⟨_, run_decrypt_of_tooLong hp hi hk hl, statusWord_raise_of_keyed _ hk,
      (errWord_raise _ _).trans (by decide), rfl, rfl, rfl⟩
  · exact ⟨_, run_decrypt_of_tooShort hp hi hk hl, statusWord_raise_of_keyed _ hk,
      (errWord_raise _ _).trans (by decide), rfl, rfl, rfl⟩
  · obtain ⟨iv, hiv⟩ := loadBlock_of_written (s := s) (r := .inBuf) (a := 0) (n := 16) hw (Nat.le_refl 16)
    obtain ⟨hkeyed, hnk, hrk⟩ := ivSplit_keeps_cipher s iv
    exact ⟨_, run_decrypt_of_misaligned hp hi hk hl hge hiv hm, statusWord_raise_of_keyed _ (hkeyed.trans hk),
      (errWord_raise _ _).trans (by decide), rfl, rfl, hnk, hrk⟩

end Sys2Proof.Machine
end

section
/-! Errors, what an idle engine keeps, and the answers of the random source (spec/60 R181, R190, R195, R196, spec/70
R211). -/

namespace Sys2Proof.Machine

/-! ## The result in an idle engine -/

/-- Every move of the engine but holding its state is made in some other phase (R212). -/
theorem EngineMove.eq_of_idle {s t : State} (h : EngineMove s t) (hp : s.phase = .idle) : t = s := by
  cases h
  case hold => rfl
  all_goals cases hp.symm.trans ‹s.phase = _›

/-- Of the host's lines only a write to CMD touches PHASE, DONE, ERR, OUTLEN or OUT (R53, R195). -/
theorem HostMove.keeps_result {s t : State} {l : HostLine} (h : HostMove s l t) (hl : ∀ v, l ≠ .wr 0 v) :
    t.phase = s.phase ∧ t.done = s.done ∧ t.err = s.err ∧ t.outlen = s.outlen ∧ t.outBuf = s.outBuf := by
  cases h
  case issue v p hp hf => exact absurd rfl (hl v)
  case illegal v hp => exact absurd rfl (hl v)
  case store sp r off b hp hr ho =>
    have hout : Region.outBuf ≠ r := by rcases hr with rfl | rfl <;> decide
    exact ⟨store_phase .., store_done .., store_err .., store_outlen .., region_store_other s off b hout⟩
  all_goals exact ⟨rfl, rfl, rfl, rfl, rfl⟩

/-- Settles O51: the idle engine holds its state, and the host's lines other than a write to CMD keep the result. -/
theorem resultStaysUntilNextCommand : Obligations.ResultStaysUntilNextCommand := by
  intro s t hp h hr hw
  rw [← hp]
  cases step_move h with
  | engine hm =>
    rw [hm.eq_of_idle hp]
    exact ⟨rfl, rfl, rfl, rfl, rfl⟩
  | host hl hm =>
    refine hm.keeps_result fun v => ?_
    rintro rfl
    exact hw v hl
  | reset hh => exact absurd hh hr
  | silence b => exact ⟨rfl, rfl, rfl, rfl, rfl⟩

/-! ## The answer of the random source -/

theorem answer_of_silent {s : State} (hs : s.rngSilent = true) : s.answer = none := by
  simp [State.answer, hs]

theorem answer_of_not_pending {s : State} (hr : s.rngPending = false) : s.answer = none := by
  simp [State.answer, hr]

theorem encryptGenIv_of_no_answer {s : State} (h : s.answer = none) : encryptGenIv s = s := by
  rw [encryptGenIv, h]

/-- Settles O26: no answer stands at the port of a silent source. -/
theorem silentSourceKeepsEncryptWaiting : Obligations.SilentSourceKeepsEncryptWaiting := fun _ hp hs =>
  (exec_encrypt_eGenIv hp).trans (congrArg Host.Outcome.next (encryptGenIv_of_no_answer (answer_of_silent hs)))

/-- Settles O27: the request that `E_PAD` sends is the outstanding one, and after a reset none is outstanding. -/
theorem answerBelongsToItsRequest : Obligations.AnswerBelongsToItsRequest := by
  refine ⟨fun s t hp hs h => ?_, fun s => ⟨answer_of_not_pending rfl, resetEngine_rngReqs s⟩⟩
  rw [exec_encrypt_ePad hp] at h
  obtain ⟨bs, -, rfl⟩ := encryptPad_next h
  exact answer_of_pending rfl hs

/-! ## Errors -/

/-- The error kind with a code, read back from R181's table. -/
def ErrorKind.ofCode : BitVec 4 → Option ErrorKind
  | 1#4 => some .invalidKeySize
  | 2#4 => some .randomness
  | 3#4 => some .ciphertextTooShort
  | 4#4 => some .misalignedCiphertext
  | 5#4 => some .notKeyed
  | 6#4 => some .inputTooLong
  | 7#4 => some .illegalCommand
  | _ => none

@[simp] theorem ErrorKind.ofCode_code (k : ErrorKind) : ErrorKind.ofCode k.code = some k := by cases k <;> rfl

theorem ErrorKind.code_injective : Function.Injective ErrorKind.code := by
  intro j k h
  simpa using congrArg ErrorKind.ofCode h

/-- Code 0 is no error's (R181). -/
theorem ErrorKind.code_ne_zero (k : ErrorKind) : k.code ≠ 0#4 := by
  intro h
  have hk := ErrorKind.ofCode_code k
  rw [h] at hk
  cases hk

/-- Settles O50: the table, and that a code determines its kind. -/
theorem errorCodesDistinguishKinds : Obligations.ErrorCodesDistinguishKinds :=
  ⟨rfl, rfl, rfl, rfl, rfl, rfl, rfl, fun _ _ h => ErrorKind.code_injective h⟩

/-- Settles O49: the state that `raise` leaves, and each bit of STATUS as its flag in that state. -/
theorem raiseErrorEndsTheCommand : Obligations.RaiseErrorEndsTheCommand := fun k s =>
  ⟨⟨[], rfl⟩, errWord_raise k s, k.code_ne_zero, statusWord_getLsbD_zero (raise k s),
    statusWord_getLsbD_one (raise k s), statusWord_getLsbD_two (raise k s), statusWord_getLsbD_three (raise k s)⟩

end Sys2Proof.Machine
end

section
/-! What the reset event leaves (spec/70 R210, spec/10 R43). -/

namespace Sys2Proof.Machine

/-- After a reset every byte of every space reads as one that nothing has written (R43). -/
theorem load_resetEngine (s : State) (r : Region) (off : Nat) : (resetEngine s).load r off = unlisted r := by
  cases r <;> rfl

/-- STATUS after a reset: no flag is set (R43). -/
theorem statusWord_resetEngine (s : State) : statusWord (resetEngine s) = 0#32 := by
  simp [statusWord, State.errorFlag, State.busy, State.reset]

/-- Settles O52: the step takes the reset event, and the fields of the state that `resetEngine` leaves. -/
theorem resetEventClearsEngine : Obligations.ResetEventClearsEngine := fun s es hi =>
  ⟨resetEngine { s with inputs := es }, step_of_inputs_cons hi, rfl, rfl, rfl, rfl, statusWord_resetEngine _,
    (errWord_eq_zero_iff _).mpr rfl, rfl, rfl, rfl, fun off _ => load_resetEngine _ .key off,
    fun off => ⟨load_resetEngine _ .inBuf off, load_resetEngine _ .outBuf off⟩, rfl, rfl, rfl⟩

end Sys2Proof.Machine
end

section
/-! Every command ends (spec/70 R225): a bound on the steps that the command in flight still takes, which every turn of
an engine that nothing hinders lowers until it is idle. -/

namespace Sys2Proof.Machine

/-! ## The measure -/

/-- A bound on the steps until the command in flight has ended: R225's counts, with `MAX_PT / 16` for `NBLK` before the
blocks are counted. -/
def State.stepsLeft (s : State) : Nat :=
  match s.phase with
  | .idle => 0
  | .kInit => 2
  | .kExpand => 1
  | .eInit => s.maxPt / 16 + 4
  | .ePad => s.maxPt / 16 + 3
  | .eGenIv => s.maxPt / 16 + 2
  | .eChain => (s.nblk + 1 - s.idx) + 1
  | .dInit => s.maxPt / 16 + 5
  | .dSplitIv => s.maxPt / 16 + 4
  | .dValidate => s.maxPt / 16 + 3
  | .dChain => (s.nblk + 1 - s.idx) + 2
  | .dStrip => 1

theorem stepsLeft_eq_zero_iff (s : State) : s.stepsLeft = 0 ↔ s.phase = .idle := by
  cases hp : s.phase <;> simp [State.stepsLeft, hp]

/-- No state that meets the invariant has more steps left than DECRYPT of the longest blob at its start. -/
theorem stepsLeft_le {s : State} (hi : s.Inv) : s.stepsLeft ≤ s.maxPt / 16 + 5 := by
  obtain ⟨hmax, -, -, -, hph⟩ := hi
  cases hp : s.phase <;> simp only [State.stepsLeft, hp]
  case eChain =>
    obtain ⟨hc, hr, -⟩ := (State.phaseOk_eChain hp).mp hph
    have hf := padded_fits hmax hc hr
    omega
  case dChain =>
    obtain ⟨ha, -⟩ := (State.phaseOk_dChain hp).mp hph
    have hf := aligned_fits ha
    omega
  all_goals omega

/-- Every move of a command in flight, but waiting for the random source, brings its end nearer. -/
theorem EngineMove.stepsLeft_lt {s t : State} (h : EngineMove s t) (hi : s.Inv) (hb : s.phase ≠ .idle)
    (hw : s.phase = .eGenIv → t.phase ≠ .eGenIv) : t.stepsLeft < s.stepsLeft := by
  obtain ⟨hmax, -, -, -, hph⟩ := hi
  cases h
  case hold hp => exact absurd hp hb
  case waitIv hp => exact absurd hp (hw hp)
  case ivTaken iv hp =>
    obtain ⟨hc, hr⟩ := (State.phaseOk_eGenIv hp).mp hph
    have hf := padded_fits hmax hc hr
    simp only [State.stepsLeft, hp]
    omega
  case aligned hp hm =>
    obtain ⟨-, -, hge, hle⟩ := (State.phaseOk_dValidate hp).mp hph
    simp only [State.stepsLeft, hp, State.cap] at hle ⊢
    omega
  case encBlock c hp hn | decBlock c p hp hn =>
    simp only [State.stepsLeft, hp]
    omega
  all_goals simp [State.stepsLeft, encryptEnd, *]

/-! ## An engine that nothing hinders -/

/-- The premises of R225: the invariant holds, nothing comes from outside, the random source answers, and the operand is
written. -/
structure State.Unhindered (s : State) : Prop where
  inv : s.Inv
  noEvents : s.inputs = []
  answers : s.sourceAnswers
  operand : s.written .inBuf s.inlen.toNat

/-- The engine changes neither the events to come nor whether the source answers. -/
theorem EngineMove.keeps_environment {s t : State} (h : EngineMove s t) :
    t.inputs = s.inputs ∧ t.rngSilent = s.rngSilent := by
  cases h <;> exact ⟨rfl, rfl⟩

theorem EngineMove.keeps_unhindered {s t : State} (h : EngineMove s t) (hs : s.Unhindered) : t.Unhindered := by
  obtain ⟨hin, hsil⟩ := h.keeps_environment
  obtain ⟨-, hbuf, -, hlen⟩ := h.keeps_operands
  refine ⟨h.keeps_inv hs.inv, hin.trans hs.noEvents, hsil.trans hs.answers, fun off ho => ?_⟩
  rw [load_congr (r := .inBuf) hbuf off]
  exact hs.operand off (hlen ▸ ho)

/-- A written space loads from its start. -/
theorem State.written.loadRange {s : State} {r : Region} {n : Nat} (h : s.written r n) :
    ∃ bs, s.loadRange r 0 n = .ok bs :=
  loadRange_of_written fun j hj => h (0 + j) (by omega)

/-- The turn of an unhindered engine does not stop: the operand, the padded plaintext and the decrypted buffer can be
read where the phases read them. -/
theorem engineTurn_next {s : State} (hs : s.Unhindered) : ∃ t, engineTurn s = .next t := by
  obtain ⟨⟨hmax, -, -, -, hph⟩, -, -, hop⟩ := hs
  cases hp : s.phase <;> simp only [engineTurn, Phase.command, exec, execConstruct, execEncrypt, execDecrypt, hp]
  case kExpand =>
    obtain ⟨-, -, hv⟩ := (State.phaseOk_kExpand hp).mp hph
    obtain ⟨v, hv⟩ := Option.isSome_iff_exists.mp hv
    exact ⟨_, constructExpand_of_legal (variantOf_some hv)⟩
  case ePad =>
    obtain ⟨-, hlen, -⟩ := (State.phaseOk_ePad hp).mp hph
    obtain ⟨bs, hbs⟩ := hop.loadRange
    exact ⟨_, encryptPad_of_load (hlen ▸ hbs)⟩
  case eChain =>
    obtain ⟨hc, hr, h1, hle, -⟩ := (State.phaseOk_eChain hp).mp hph
    obtain ⟨hfit, -⟩ := padded_fits hmax hc hr
    obtain ⟨-, -, hw⟩ := hr
    by_cases hn : s.idx ≤ s.nblk
    · obtain ⟨p, hload⟩ := loadBlock_of_written (a := 16 * (s.idx - 1)) hw (by omega)
      exact ⟨_, encryptChain_of_block h1 hn hload⟩
    · exact ⟨_, encryptChain_of_end (by omega)⟩
  case dSplitIv =>
    obtain ⟨-, hlen, hge, -⟩ := (State.phaseOk_dSplitIv hp).mp hph
    obtain ⟨iv, hiv⟩ := loadBlock_of_written (a := 0) hop (by omega)
    exact ⟨_, decryptSplitIv_of_load hiv⟩
  case dChain =>
    obtain ⟨ha, h1, -, -⟩ := (State.phaseOk_dChain hp).mp hph
    obtain ⟨hfit, -⟩ := aligned_fits ha
    obtain ⟨⟨-, hlen, hge, -⟩, -, hwlen, -⟩ := ha
    by_cases hn : s.idx ≤ s.nblk
    · obtain ⟨c, hc⟩ := loadBlock_of_written (a := 16 * s.idx) hop (by omega)
      exact ⟨_, decryptChain_of_block h1 hn hc⟩
    · exact ⟨_, decryptChain_of_exit (Nat.lt_of_not_le hn)⟩
  case dStrip =>
    obtain ⟨-, -, hw⟩ := (State.phaseOk_dStrip hp).mp hph
    obtain ⟨bs, hbs⟩ := hw.loadRange
    exact ⟨_, decryptStrip_of_load hbs⟩
  all_goals exact ⟨_, rfl⟩

/-- With its request outstanding and a source that answers, ENCRYPT does not stay at `E_GENIV` (R143). -/
theorem encryptGenIv_leaves {s : State} (hr : s.rngPending = true) (hs : s.rngSilent = false) :
    (encryptGenIv s).phase ≠ .eGenIv := by
  have ha := answer_of_pending hr hs
  cases hresp : s.answerTo (s.rngReqs - 1) with
  | ok iv =>
    rw [encryptGenIv_of_ok (ha.trans (congrArg some hresp))]
    exact Phase.noConfusion
  | fail =>
    rw [encryptGenIv_of_fail (ha.trans (congrArg some hresp))]
    exact Phase.noConfusion

theorem engineTurn_leaves_eGenIv {s t : State} (hs : s.Unhindered) (hp : s.phase = .eGenIv)
    (h : engineTurn s = .next t) : t.phase ≠ .eGenIv := by
  obtain ⟨⟨-, -, -, hst, -⟩, -, hans, -⟩ := hs
  have hc : s.phase.command = some .encrypt := by rw [hp]; rfl
  rw [engineTurn_command hc, exec_encrypt_eGenIv hp] at h
  cases h
  exact encryptGenIv_leaves (hst.pending_iff.mpr hp) hans

/-- One step of an unhindered engine: it stays unhindered, and has a step less left unless it is idle. -/
theorem step_progress {s : State} (hs : s.Unhindered) :
    ∃ t, step s = .next t ∧ t.Unhindered ∧ t.stepsLeft ≤ s.stepsLeft - 1 := by
  obtain ⟨t, ht⟩ := engineTurn_next hs
  have hm := engineTurn_move ht
  refine ⟨t, (step_of_inputs_nil hs.noEvents).trans ht, hm.keeps_unhindered hs, ?_⟩
  by_cases hp : s.phase = .idle
  · rw [hm.eq_of_idle hp, (stepsLeft_eq_zero_iff s).mpr hp]
  · exact Nat.le_sub_one_of_lt (hm.stepsLeft_lt hs.inv hp fun hg => engineTurn_leaves_eGenIv hs hg ht)

/-- A run of at least the steps left ends with an idle engine. -/
theorem run_of_stepsLeft_le {s : State} {n : Nat} (hs : s.Unhindered) (hn : s.stepsLeft ≤ n) :
    ∃ t, Host.Core.run Sys2Proof.core n s = .next t ∧ State.phase t = .idle := by
  induction n generalizing s with
  | zero => exact ⟨s, rfl, (stepsLeft_eq_zero_iff s).mp (Nat.le_zero.mp hn)⟩
  | succ n ih =>
    obtain ⟨t, hstep, ht, hless⟩ := step_progress hs
    rw [run_core_of_step n hstep]
    exact ih ht (by omega)

/-- Settles O60: the bound on the steps left is below `MAX_PT / 16 + 6` in every state that meets the invariant. -/
theorem everyCommandEnds : Obligations.EveryCommandEnds := fun _ hi hin hans hop =>
  run_of_stepsLeft_le ⟨hi, hin, hans, hop⟩ (Nat.le_succ_of_le (stepsLeft_le hi))

end Sys2Proof.Machine
end
